-- ==== Sys2Proof/Word.lean ====
section
/-! DEFINITION. The words of the block (00_scope.md R11-R13): bytes, 32-bit integers, binary32 bit
patterns, 11-bit CAN identifiers; and `Six`, six like things, one per axis (R9: NUM_AXES = 6). -/

namespace Sys2Proof

/-- `u8` of R12. -/
abbrev Byte := BitVec 8

/-- `u32` of R12: arithmetic wraps modulo 2^32. -/
abbrev U32 := BitVec 32

/-- The 32 bits of an IEEE 754 binary32 value (R13). `f32_bits` and `f32_from_bits` are the identity on it. -/
abbrev F32 := BitVec 32

/-- An 11-bit standard CAN identifier (R31, R177). -/
abbrev CanId := BitVec 11

/-- A natural number as a `u32`, modulo 2^32. -/
def u32 (n : Nat) : U32 := BitVec.ofNat 32 n

/-- Six values, one per axis index 0..5 (R9: NUM_AXES = 6, "trajectory rows are 6 floats"). -/
structure Six (α : Type) where
  x0 : α
  x1 : α
  x2 : α
  x3 : α
  x4 : α
  x5 : α
  deriving DecidableEq, Repr

/-- Element `i`. -/
def Six.get {α : Type} (v : Six α) (i : Fin 6) : α :=
  match i with
  | 0 => v.x0
  | 1 => v.x1
  | 2 => v.x2
  | 3 => v.x3
  | 4 => v.x4
  | 5 => v.x5

/-- Element `i` replaced by `a`. -/
def Six.set {α : Type} (v : Six α) (i : Fin 6) (a : α) : Six α :=
  match i with
  | 0 => { v with x0 := a }
  | 1 => { v with x1 := a }
  | 2 => { v with x2 := a }
  | 3 => { v with x3 := a }
  | 4 => { v with x4 := a }
  | 5 => { v with x5 := a }

/-- The six values of a function of the index. -/
def Six.tabulate {α : Type} (f : Fin 6 → α) : Six α := ⟨f 0, f 1, f 2, f 3, f 4, f 5⟩

/-- The same value six times. -/
def Six.replicate {α : Type} (a : α) : Six α := ⟨a, a, a, a, a, a⟩

/-- `f` applied to each element. -/
def Six.map {α β : Type} (f : α → β) (v : Six α) : Six β :=
  ⟨f v.x0, f v.x1, f v.x2, f v.x3, f v.x4, f v.x5⟩

/-- `f i` applied to element `i`, for each `i`. -/
def Six.mapIdx {α β : Type} (f : Fin 6 → α → β) (v : Six α) : Six β :=
  Six.tabulate fun i => f i (v.get i)

/-- The elements in index order. -/
def Six.toList {α : Type} (v : Six α) : List α := [v.x0, v.x1, v.x2, v.x3, v.x4, v.x5]

/-- Whether `p` holds of every element. -/
def Six.all {α : Type} (p : α → Bool) (v : Six α) : Bool :=
  p v.x0 && p v.x1 && p v.x2 && p v.x3 && p v.x4 && p v.x5

end Sys2Proof
end

