-- ==== Sys2Proof/Config.lean ====
section
/-! DEFINITION. The parameters of an instance of the block (00_scope.md R9), their default values, the
derived sizes, and the free values: what the spec leaves open and the machine goes on with. -/

namespace Sys2Proof

/-- `DIRECTION[i]`, one of +1 and −1 (R9, R43). -/
inductive Direction where
  | plus
  | minus
  deriving DecidableEq, Repr

/-- The message-id map `MSG_*` (R9, R160). -/
structure MsgIds where
  heartbeat  : Byte
  enable     : Byte
  play       : Byte
  pause      : Byte
  stop       : Byte
  disable    : Byte
  upload     : Byte
  ack        : Byte
  nak        : Byte
  reset      : Byte
  quit       : Byte
  connect    : Byte
  disconnect : Byte
  move       : Byte
  feedback   : Byte
  info       : Byte
  unknown    : Byte
  deriving DecidableEq, Repr

/-- The seventeen message ids in the order of R160. -/
def MsgIds.toList (m : MsgIds) : List Byte :=
  [m.heartbeat, m.enable, m.play, m.pause, m.stop, m.disable, m.upload, m.ack, m.nak, m.reset,
   m.quit, m.connect, m.disconnect, m.move, m.feedback, m.info, m.unknown]

/-- The motor-opcode map `OP_*` (R9, R170). -/
structure OpCodes where
  resetConfig       : Byte
  refreshConfig     : Byte
  modifyConfig      : Byte
  retrieveConfig    : Byte
  startMotor        : Byte
  stopMotor         : Byte
  torqueCtrl        : Byte
  speedCtrl         : Byte
  positionCtrl      : Byte
  stopCtrl          : Byte
  modifyParam       : Byte
  retrieveParam     : Byte
  getVersion        : Byte
  getFault          : Byte
  ackFault          : Byte
  retrieveIndicator : Byte
  deriving DecidableEq, Repr

/-- The sixteen opcodes in the order of R170. -/
def OpCodes.toList (o : OpCodes) : List Byte :=
  [o.resetConfig, o.refreshConfig, o.modifyConfig, o.retrieveConfig, o.startMotor, o.stopMotor,
   o.torqueCtrl, o.speedCtrl, o.positionCtrl, o.stopCtrl, o.modifyParam, o.retrieveParam,
   o.getVersion, o.getFault, o.ackFault, o.retrieveIndicator]

/-- The parameter table of R9, one field per row that is not derived. Per-axis constants are the
hardwired elements of R43. -/
structure Config where
  numAxes       : Nat
  rxCap         : Nat
  txCap         : Nat
  startMarker   : Byte
  endMarker     : Byte
  hasEndMarker  : Bool
  maxPacketSize : Nat
  scratchWindow : Nat
  trajRows      : Nat
  nodeId        : Byte
  hostId        : Byte
  msg           : MsgIds
  op            : OpCodes
  resultSuccess : Byte
  posMin        : F32
  posMax        : F32
  velMin        : F32
  velMax        : F32
  curMin        : F32
  curMax        : F32
  kt            : F32
  gear          : F32
  pEngaged      : F32
  vLimEngaged   : F32
  pIdle         : F32
  vLimIdle      : F32
  dEngaged      : F32
  dIdle         : F32
  angleLimit    : F32
  calStep       : F32
  calTol        : F32
  dwellTicks    : Nat
  debounceN     : Nat
  direction     : Six Direction
  axisId        : Six Byte
  canId         : Six CanId
  canTxqDepth   : Nat
  pdDuration    : U32
  tickRateHz    : Nat
  deriving DecidableEq, Repr

/-- The message ids of R160. -/
def MsgIds.default : MsgIds where
  heartbeat  := 0x01
  enable     := 0x02
  play       := 0x03
  pause      := 0x04
  stop       := 0x05
  disable    := 0x06
  upload     := 0x07
  ack        := 0x08
  nak        := 0x09
  reset      := 0x0A
  quit       := 0x0B
  connect    := 0x0C
  disconnect := 0x0D
  move       := 0x0E
  feedback   := 0x0F
  info       := 0x10
  unknown    := 0xFF

/-- The motor opcodes of R170. -/
def OpCodes.default : OpCodes where
  resetConfig       := 0x81
  refreshConfig     := 0x82
  modifyConfig      := 0x83
  retrieveConfig    := 0x84
  startMotor        := 0x91
  stopMotor         := 0x92
  torqueCtrl        := 0x93
  speedCtrl         := 0x94
  positionCtrl      := 0x95
  stopCtrl          := 0x97
  modifyParam       := 0xA1
  retrieveParam     := 0xA2
  getVersion        := 0xB1
  getFault          := 0xB2
  ackFault          := 0xB3
  retrieveIndicator := 0xB4

/-- The defaults of R9: "the value this spec's hardware takes". The bit patterns are the binary32 values
nearest to the table's decimals (R13). -/
def Config.default : Config where
  numAxes       := 6
  rxCap         := 1024
  txCap         := 1024
  startMarker   := 0x7E
  endMarker     := 0x7F
  hasEndMarker  := true
  maxPacketSize := 32768
  scratchWindow := 64
  trajRows      := 1024
  nodeId        := 0x01
  hostId        := 0x00
  msg           := MsgIds.default
  op            := OpCodes.default
  resultSuccess := 0x00
  posMin        := 0xC1480000   -- -12.5
  posMax        := 0x41480000   -- 12.5
  velMin        := 0xC2820000   -- -65.0
  velMax        := 0x42820000   -- 65.0
  curMin        := 0xC3610000   -- -225.0
  curMax        := 0x43610000   -- 225.0
  kt            := 0x3F800000   -- 1.0
  gear          := 0x3F800000   -- 1.0
  pEngaged      := 0x42C80000   -- 100.0
  vLimEngaged   := 0x41400000   -- 12.0
  pIdle         := 0x40A00000   -- 5.0
  vLimIdle      := 0x3EA8F5C3   -- 0.33
  dEngaged      := 0x00000000   -- 0.0
  dIdle         := 0x00000000   -- 0.0
  angleLimit    := 0x3FC90FDB   -- pi/2
  calStep       := 0x3A800000   -- 2^-10
  calTol        := 0x3A800000   -- 2^-10
  dwellTicks    := 100
  debounceN     := 3
  direction     := Six.replicate .plus
  axisId        := ⟨0, 1, 2, 3, 4, 5⟩
  canId         := ⟨1, 2, 3, 4, 5, 6⟩
  canTxqDepth   := 4
  pdDuration    := 0
  tickRateHz    := 1000

/-- HEADER_SIZE = 4+4+1+1+1 (R9). -/
def headerSize : Nat := 11

/-- ROW_BYTES = 6 × 4 (R9). -/
def rowBytes : Nat := 24

/-- FOOTER_SIZE: the CRC and, where the layout has one, the end marker (R9, R154). -/
def Config.footerSize (c : Config) : Nat := if c.hasEndMarker then 5 else 4

/-- OVERHEAD = 1 + HEADER_SIZE + FOOTER_SIZE (R9, R151). -/
def Config.overhead (c : Config) : Nat := 1 + headerSize + c.footerSize

/-- MAX_PAYLOAD = MAX_PACKET_SIZE − OVERHEAD (R9). -/
def Config.maxPayload (c : Config) : Nat := c.maxPacketSize - c.overhead

/-- The four binary32 operations of R13. -/
inductive FloatOp where
  | add
  | sub
  | mul
  | div
  deriving DecidableEq, Repr

/-- FREE VALUE. Which NaN an operation of R13 delivers when it delivers a NaN: the spec names no bit
pattern. Nothing is known of it; `F32.nan` uses it only where it is a NaN (notes/assumptions/5.md). -/
opaque Config.nanResult (op : FloatOp) (a b : F32) : F32

/-- FREE VALUE. `trunc_int` of a NaN or an infinity, which R13 does not give (notes/assumptions/6.md). -/
opaque Config.truncOfNonFinite (x : F32) : Int

end Sys2Proof
end

