-- ==== Sys2Proof/Syntax.lean ====
section
/-! DEFINITION. The instructions of the block (00_scope.md R2): the host message kinds of 30_encoding.md R160
and the motor frames of R170, with their operands; what travels on the wires; and the requests that the
motor codec builds. -/

namespace Sys2Proof

/-- The header fields of a host packet that a message's meaning can use (R150: sequence, fromId, toId). -/
structure Header where
  sequence : U32
  fromId   : Byte
  toId     : Byte
  deriving DecidableEq, Repr

/-- One trajectory row, the body-frame target of each axis (20_memory.md R104). -/
abbrev Row := Six F32

/-- The 8 data bytes of a CAN frame (R31, R170). -/
structure Frame where
  b0 : Byte
  b1 : Byte
  b2 : Byte
  b3 : Byte
  b4 : Byte
  b5 : Byte
  b6 : Byte
  b7 : Byte
  deriving DecidableEq, Repr

/-- The fields of the 28-byte FEEDBACK payload, in the order of R165. -/
structure Feedback where
  axisId      : Byte
  stage       : Byte
  flags       : Byte
  temperature : Byte
  angle       : F32
  velocity    : F32
  torque      : F32
  setPoint    : F32
  rxTs        : U32
  txTs        : U32
  deriving DecidableEq, Repr

/-- A reply whose bytes 2..7 the block keeps raw (R174, R176): the result code and those six bytes. -/
structure RawReply where
  result : Byte
  data   : Six Byte
  deriving DecidableEq, Repr

/-- A control response (R175): result, temperature (two's complement), position, velocity and torque codes. -/
structure ControlReply where
  result : Byte
  temp   : Byte
  pc     : BitVec 16
  vc     : BitVec 12
  tc     : BitVec 12
  deriving DecidableEq, Repr

/-- The instructions: one constructor per row of spec/opcode_table.json. A host message carries its header
and payload; a motor frame is the reply that CAN_RX delivers, with its CAN identifier. -/
inductive Instr where
  | heartbeat (h : Header) (payload : List Byte)
  | enable (h : Header) (payload : List Byte)
  | play (h : Header) (payload : List Byte)
  | pause (h : Header) (payload : List Byte)
  | stop (h : Header) (payload : List Byte)
  | disable (h : Header) (payload : List Byte)
  | upload (h : Header) (rows : List Row)
  | ack (h : Header) (answeredSeq : U32) (answeredId : Byte)
  | nak (h : Header) (answeredSeq : U32) (answeredId : Byte)
  | reset (h : Header) (payload : List Byte)
  | quit (h : Header) (payload : List Byte)
  | connect (h : Header) (payload : List Byte)
  | disconnect (h : Header) (payload : List Byte)
  | move (h : Header) (row : Row)
  | feedback (h : Header) (fb : Feedback)
  | info (h : Header) (payload : List Byte)
  | unknown (h : Header) (msgId : Byte) (payload : List Byte)
  | opResetConfig (id : CanId) (r : RawReply)
  | opRefreshConfig (id : CanId) (r : RawReply)
  | opModifyConfig (id : CanId) (r : RawReply)
  | opRetrieveConfig (id : CanId) (r : RawReply)
  | opStartMotor (id : CanId) (r : RawReply)
  | opStopMotor (id : CanId) (r : RawReply)
  | opTorqueCtrl (id : CanId) (r : ControlReply)
  | opSpeedCtrl (id : CanId) (r : ControlReply)
  | opPositionCtrl (id : CanId) (r : ControlReply)
  | opStopCtrl (id : CanId) (r : RawReply)
  | opModifyParam (id : CanId) (r : RawReply)
  | opRetrieveParam (id : CanId) (r : RawReply)
  | opGetVersion (id : CanId) (r : RawReply)
  | opGetFault (id : CanId) (r : RawReply)
  | opAckFault (id : CanId) (r : RawReply)
  | opRetrieveIndicator (id : CanId) (r : RawReply)
  deriving DecidableEq, Repr

/-- What carries an instruction to the block (R31): a byte sequence on RX_IN, or a frame on the CAN port. -/
inductive Wire where
  | packet (bytes : List Byte)
  | frame (id : CanId) (data : Frame)
  deriving DecidableEq, Repr

/-- The sixteen motor requests (43_motor_codec.md R300-R315), each with the operands of its class: none,
seven argument bytes (R173), or a binary32 value and a duration (R171). -/
inductive Request where
  | resetConfig
  | refreshConfig
  | modifyConfig (arg : List Byte)
  | retrieveConfig (arg : List Byte)
  | startMotor
  | stopMotor
  | torqueCtrl (torque : F32) (duration : U32)
  | speedCtrl (speed : F32) (duration : U32)
  | positionCtrl (position : F32) (duration : U32)
  | stopCtrl
  | modifyParam (arg : List Byte)
  | retrieveParam (arg : List Byte)
  | getVersion
  | getFault
  | ackFault (arg : List Byte)
  | retrieveIndicator (arg : List Byte)
  deriving DecidableEq, Repr

end Sys2Proof
end

