-- ==== Sys2Proof/Machine/Bytes.lean ====
section
/-! DEFINITION. Byte order and bit fields (00_scope.md R11, R12; 20_memory.md R102-R105; 30_encoding.md R175):
assembling fields from bytes and splitting them, in one place. -/

namespace Sys2Proof

/-- `le16` of R12. -/
def le16 (b0 b1 : Byte) : BitVec 16 := BitVec.ofNat 16 (b0.toNat + 2 ^ 8 * b1.toNat)

/-- `le24` of R12, zero-extended to 32 bits. -/
def le24 (b0 b1 b2 : Byte) : U32 :=
  BitVec.ofNat 32 (b0.toNat + 2 ^ 8 * b1.toNat + 2 ^ 16 * b2.toNat)

/-- `le32` of R12. -/
def le32 (b0 b1 b2 b3 : Byte) : U32 :=
  BitVec.ofNat 32 (b0.toNat + 2 ^ 8 * b1.toNat + 2 ^ 16 * b2.toNat + 2 ^ 24 * b3.toNat)

/-- Byte `k` of a value, byte 0 the least significant (R11). -/
def byteAt {w : Nat} (v : BitVec w) (k : Nat) : Byte := BitVec.ofNat 8 (v.toNat / 2 ^ (8 * k))

/-- `bytes_le32` of R12, the inverse of `le32`. -/
def bytesLe32 (v : U32) : List Byte := [byteAt v 0, byteAt v 1, byteAt v 2, byteAt v 3]

/-- `bytes_le24` of R12: the three low-order bytes. -/
def bytesLe24 (v : U32) : List Byte := [byteAt v 0, byteAt v 1, byteAt v 2]

/-- The u32 or binary32 field at byte offset `o` of a payload (R104). -/
def wordAt (pl : List Byte) (o : Nat) : U32 :=
  le32 (pl.getD o 0) (pl.getD (o + 1) 0) (pl.getD (o + 2) 0) (pl.getD (o + 3) 0)

/-- Row `r` of a trajectory payload: the value for axis `i` is at byte offset `24r + 4i` (R104). -/
def rowAt (pl : List Byte) (r : Nat) : Row := Six.tabulate fun i => wordAt pl (24 * r + 4 * i.val)

/-- The bytes of a row, axis 0 first (R104). -/
def rowToBytes (row : Row) : List Byte :=
  bytesLe32 row.x0 ++ bytesLe32 row.x1 ++ bytesLe32 row.x2 ++ bytesLe32 row.x3 ++ bytesLe32 row.x4
    ++ bytesLe32 row.x5

/-- The bytes of an UPLOAD payload, row 0 first (R164). -/
def rowsToBytes (rows : List Row) : List Byte := rows.flatMap rowToBytes

/-- The ACK and NAK payload (R163): the answered sequence number, then the answered message id. -/
def answerToBytes (seq : U32) (msgId : Byte) : List Byte := bytesLe32 seq ++ [msgId]

/-- The 28 bytes of a FEEDBACK payload (R165). -/
def feedbackToBytes (fb : Feedback) : List Byte :=
  [fb.axisId, fb.stage, fb.flags, fb.temperature] ++ bytesLe32 fb.angle ++ bytesLe32 fb.velocity
    ++ bytesLe32 fb.torque ++ bytesLe32 fb.setPoint ++ bytesLe32 fb.rxTs ++ bytesLe32 fb.txTs

/-- The fields of a FEEDBACK payload, read back at the offsets of R165. -/
def feedbackOfBytes (pl : List Byte) : Feedback where
  axisId      := pl.getD 0 0
  stage       := pl.getD 1 0
  flags       := pl.getD 2 0
  temperature := pl.getD 3 0
  angle       := wordAt pl 4
  velocity    := wordAt pl 8
  torque      := wordAt pl 12
  setPoint    := wordAt pl 16
  rxTs        := wordAt pl 20
  txTs        := wordAt pl 24

/-- The bytes of a CAN frame in order. -/
def Frame.toList (f : Frame) : List Byte := [f.b0, f.b1, f.b2, f.b3, f.b4, f.b5, f.b6, f.b7]

/-- Eight zero bytes. -/
def Frame.zero : Frame := ⟨0, 0, 0, 0, 0, 0, 0, 0⟩

/-- The velocity code of a control response: b5 and the low nibble of b6 (R175). -/
def velocityCode (b5 b6 : Byte) : BitVec 12 := BitVec.ofNat 12 (b5.toNat + 256 * (b6.toNat % 16))

/-- The torque code of a control response: the high nibble of b6, then b7 (R175). -/
def torqueCode (b6 b7 : Byte) : BitVec 12 := BitVec.ofNat 12 (b6.toNat / 16 + 16 * b7.toNat)

/-- Byte 6 of a control response, the two codes' shared byte (R323). -/
def sharedNibbles (vc tc : BitVec 12) : Byte := BitVec.ofNat 8 (vc.toNat / 256 + 16 * (tc.toNat % 16))

/-- Byte 7 of a control response: bits 11..4 of the torque code (R323). -/
def torqueHighByte (tc : BitVec 12) : Byte := BitVec.ofNat 8 (tc.toNat / 16)

end Sys2Proof
end

