-- ==== Sys2Proof/Machine/Float32.lean ====
section
/-! DEFINITION. IEEE 754 binary32 arithmetic on bit patterns (00_scope.md R13): round to nearest, ties to
even, every intermediate rounded, no fused multiply-add. Finite operands are taken apart into an exact
integer significand and exponent, the exact result is computed, and `roundMagnitude` rounds it once. -/

namespace Sys2Proof.F32

/-- Bit 31. -/
def isNegative (x : F32) : Bool := 2 ^ 31 ≤ x.toNat

/-- Bits 30..0. -/
def magnitude (x : F32) : Nat := x.toNat % 2 ^ 31

/-- Bits 30..23, the biased exponent. -/
def exponentField (x : F32) : Nat := x.toNat / 2 ^ 23 % 2 ^ 8

/-- Bits 22..0. -/
def fractionField (x : F32) : Nat := x.toNat % 2 ^ 23

def isNaN (x : F32) : Bool := 0x7F800000 < magnitude x

def isInf (x : F32) : Bool := magnitude x == 0x7F800000

def isZero (x : F32) : Bool := magnitude x == 0

/-- The integer significand of a finite value: `|x| = significand · 2^exponent`. -/
def significand (x : F32) : Nat :=
  if exponentField x = 0 then fractionField x else 2 ^ 23 + fractionField x

/-- The exponent that goes with `significand`. -/
def exponent (x : F32) : Int := (if exponentField x = 0 then 1 else (exponentField x : Int)) - 150

/-- The bit pattern with a given sign and bits 30..0. -/
def ofSignMagnitude (neg : Bool) (mag : Nat) : F32 :=
  BitVec.ofNat 32 ((if neg then 2 ^ 31 else 0) + mag)

def zero (neg : Bool) : F32 := ofSignMagnitude neg 0

def infinity (neg : Bool) : F32 := ofSignMagnitude neg 0x7F800000

/-- The NaN an operation delivers: the free value where it is a NaN (R13 names none). -/
def nan (op : FloatOp) (a b : F32) : F32 :=
  if isNaN (Config.nanResult op a b) then Config.nanResult op a b else 0x7FC00000

/-- `m / 2^sh` rounded to an integer, to nearest, ties to even. -/
def roundShift (m sh : Nat) : Nat :=
  if sh = 0 then m
  else if 2 ^ (sh - 1) < m % 2 ^ sh ∨ (m % 2 ^ sh = 2 ^ (sh - 1) ∧ m / 2 ^ sh % 2 = 1)
  then m / 2 ^ sh + 1
  else m / 2 ^ sh

/-- Bits 30..0 of the binary32 value nearest to `m · 2^e`, ties to even; beyond the largest finite value,
infinity. The unit of the last place is `2^q`, and a significand that includes the leading bit adds one to
the exponent field, so the field is written as `q + 149`. -/
def roundMagnitude (m : Nat) (e : Int) : Nat :=
  if m = 0 then 0
  else
    let q : Int := max (e + Nat.log2 m - 23) (-149)
    let r := if q ≤ e then m * 2 ^ (e - q).toNat else roundShift m (q - e).toNat
    min ((q + 149).toNat * 2 ^ 23 + r) 0x7F800000

/-- The exact integer `x / 2^e`, for a finite `x` whose exponent is at least `e`. -/
def scaled (x : F32) (e : Int) : Int :=
  let m : Int := (significand x : Int) * 2 ^ (exponent x - e).toNat
  if isNegative x then -m else m

/-- `fneg` flips the sign bit (R13). -/
def neg (x : F32) : F32 := x ^^^ 0x80000000

/-- `fabs` clears the sign bit (R13). -/
def abs (x : F32) : F32 := x &&& 0x7FFFFFFF

/-- The sum of `a` and `b`; `op` only names the operation for the free NaN. An exact zero sum is +0 unless
both operands are −0 (round to nearest). -/
def sum (op : FloatOp) (a b : F32) : F32 :=
  if isNaN a || isNaN b then nan op a b
  else if isInf a then
    if isInf b && (isNegative a != isNegative b) then nan op a b else a
  else if isInf b then b
  else
    let e := min (exponent a) (exponent b)
    let t := scaled a e + scaled b e
    if t = 0 then zero (isNegative a && isNegative b)
    else ofSignMagnitude (t < 0) (roundMagnitude t.natAbs e)

/-- `fadd` (R13). -/
def add (a b : F32) : F32 := sum .add a b

/-- `fsub` (R13). -/
def sub (a b : F32) : F32 := sum .sub a (neg b)

/-- `fmul` (R13). -/
def mul (a b : F32) : F32 :=
  let s := isNegative a != isNegative b
  if isNaN a || isNaN b then nan .mul a b
  else if isInf a || isInf b then
    if isZero a || isZero b then nan .mul a b else infinity s
  else ofSignMagnitude s (roundMagnitude (significand a * significand b) (exponent a + exponent b))

/-- `fdiv` (R13). The quotient is taken to 60 further bits, and its last bit says whether it is inexact. -/
def div (a b : F32) : F32 :=
  let s := isNegative a != isNegative b
  if isNaN a || isNaN b then nan .div a b
  else if isInf a then
    if isInf b then nan .div a b else infinity s
  else if isInf b then zero s
  else if isZero b then
    if isZero a then nan .div a b else infinity s
  else
    let n := significand a * 2 ^ 60
    let d := significand b
    let sticky := if n % d = 0 then 0 else 1
    ofSignMagnitude s (roundMagnitude (2 * (n / d) + sticky) (exponent a - exponent b - 61))

/-- A key in which finite values and infinities are ordered; both zeros have key 0. -/
def orderKey (x : F32) : Int := if isNegative x then -(magnitude x : Int) else magnitude x

/-- IEEE `<`: false when either operand is NaN (R13). -/
def lt (a b : F32) : Bool := !isNaN a && !isNaN b && decide (orderKey a < orderKey b)

/-- IEEE `≤`: false when either operand is NaN (R13). -/
def le (a b : F32) : Bool := !isNaN a && !isNaN b && decide (orderKey a ≤ orderKey b)

/-- `f32_of_int(n)` for `n ≥ 0` (R13): exact below 2^24. -/
def ofNat (n : Nat) : F32 := ofSignMagnitude false (roundMagnitude n 0)

/-- `trunc_int`: rounds toward zero (R13); a free value on NaN and infinities. -/
def truncInt (x : F32) : Int :=
  if isNaN x || isInf x then Config.truncOfNonFinite x
  else
    let m : Nat :=
      if 0 ≤ exponent x then significand x * 2 ^ (exponent x).toNat
      else significand x / 2 ^ (-exponent x).toNat
    if isNegative x then -(m : Int) else m

/-- +0.0. -/
def posZero : F32 := 0x00000000

/-- 1.0. -/
def one : F32 := 0x3F800000

/-- −1.0. -/
def minusOne : F32 := 0xBF800000

/-- 2.0. -/
def two : F32 := 0x40000000

end Sys2Proof.F32
end

