-- ==== Sys2Proof/Machine/MotorCodec.lean ====
section
/-! DEFINITION. The motor codec (43_motor_codec.md): request encoders, reply decoders, the affine code
conversions, and the driver-side reverse functions of section 4. Every function is pure. -/

namespace Sys2Proof

/-- `enc_f32dur` (R290): the value bit for bit, then duration bits 23..0. -/
def encF32Dur (op : Byte) (value : F32) (duration : U32) : Frame :=
  ⟨op, byteAt value 0, byteAt value 1, byteAt value 2, byteAt value 3,
   byteAt duration 0, byteAt duration 1, byteAt duration 2⟩

/-- `enc_none` (R291). -/
def encNone (op : Byte) : Frame := ⟨op, 0, 0, 0, 0, 0, 0, 0⟩

/-- `enc_raw7` (R292): an argument that is not seven bytes is not a frame. -/
def encRaw7 (op : Byte) (arg : List Byte) : Option Frame :=
  match arg with
  | [a0, a1, a2, a3, a4, a5, a6] => some ⟨op, a0, a1, a2, a3, a4, a5, a6⟩
  | _ => none

/-- The request frame of each kind (R300-R315). -/
def encRequest (c : Config) (r : Request) : Option Frame :=
  match r with
  | .resetConfig => some (encNone c.op.resetConfig)
  | .refreshConfig => some (encNone c.op.refreshConfig)
  | .modifyConfig arg => encRaw7 c.op.modifyConfig arg
  | .retrieveConfig arg => encRaw7 c.op.retrieveConfig arg
  | .startMotor => some (encNone c.op.startMotor)
  | .stopMotor => some (encNone c.op.stopMotor)
  | .torqueCtrl v d => some (encF32Dur c.op.torqueCtrl v d)
  | .speedCtrl v d => some (encF32Dur c.op.speedCtrl v d)
  | .positionCtrl v d => some (encF32Dur c.op.positionCtrl v d)
  | .stopCtrl => some (encNone c.op.stopCtrl)
  | .modifyParam arg => encRaw7 c.op.modifyParam arg
  | .retrieveParam arg => encRaw7 c.op.retrieveParam arg
  | .getVersion => some (encNone c.op.getVersion)
  | .getFault => some (encNone c.op.getFault)
  | .ackFault arg => encRaw7 c.op.ackFault arg
  | .retrieveIndicator arg => encRaw7 c.op.retrieveIndicator arg

/-- The fields of a control response, without the opcode check (R175). -/
def controlFields (f : Frame) : ControlReply where
  result := f.b1
  temp   := f.b2
  pc     := le16 f.b3 f.b4
  vc     := velocityCode f.b5 f.b6
  tc     := torqueCode f.b6 f.b7

/-- `dec_control` (R316): fails when byte 0 is not the expected opcode. -/
def decControl (op : Byte) (f : Frame) : Option ControlReply :=
  if f.b0 = op then some (controlFields f) else none

/-- `enc_control` (R323). -/
def encControl (op : Byte) (r : ControlReply) : Frame :=
  ⟨op, r.result, r.temp, byteAt r.pc 0, byteAt r.pc 1, byteAt r.vc 0, sharedNibbles r.vc r.tc,
   torqueHighByte r.tc⟩

/-- The result code and raw bytes of a reply (R174). -/
def rawFields (f : Frame) : RawReply where
  result := f.b1
  data   := ⟨f.b2, f.b3, f.b4, f.b5, f.b6, f.b7⟩

/-- The frame of a raw reply (R174). -/
def encRawReply (op : Byte) (r : RawReply) : Frame :=
  ⟨op, r.result, r.data.x0, r.data.x1, r.data.x2, r.data.x3, r.data.x4, r.data.x5⟩

/-- `dec_result` (R320): whether byte 0 is the opcode, and whether the result is success besides. -/
def decResult (c : Config) (op : Byte) (f : Frame) : Bool × Bool :=
  (f.b0 == op, f.b0 == op && f.b1 == c.resultSuccess)

/-- `dec_f32dur` (R321), the inverse of `encF32Dur`; driver side. -/
def decF32Dur (op : Byte) (f : Frame) : Bool × F32 × U32 :=
  (f.b0 == op, le32 f.b1 f.b2 f.b3 f.b4, le24 f.b5 f.b6 f.b7)

/-- `u2f` (R317), the affine decode, in the order of its pseudocode. -/
def u2f (code : Nat) (lo hi : F32) (nb : Nat) : F32 :=
  F32.add (F32.div (F32.mul (F32.ofNat code) (F32.sub hi lo)) (F32.ofNat (2 ^ nb - 1))) lo

/-- `f2u` (R322), the affine encode of a driver model; not used by the block. -/
def f2u (x lo hi : F32) (nb : Nat) : Int :=
  if F32.isNaN x then 0
  else
    let xc := if F32.lt x lo then lo else if F32.lt hi x then hi else x
    F32.truncInt (F32.div (F32.mul (F32.sub xc lo) (F32.ofNat (2 ^ nb - 1))) (F32.sub hi lo))

/-- Position in rad, motor frame (R318). -/
def thetaOfCode (c : Config) (pc : BitVec 16) : F32 := u2f pc.toNat c.posMin c.posMax 16

/-- Velocity in rad/s, motor frame (R318). -/
def omegaOfCode (c : Config) (vc : BitVec 12) : F32 := u2f vc.toNat c.velMin c.velMax 12

/-- Torque: the current, times KT, times GEAR (R319, I22). -/
def tauOfCode (c : Config) (tc : BitVec 12) : F32 :=
  F32.mul (F32.mul (u2f tc.toNat c.curMin c.curMax 12) c.kt) c.gear

end Sys2Proof
end

