-- ==== Sys2Proof/Machine/Crc.lean ====
section
/-! DEFINITION. CRC-32/ISO-HDLC (41_parser.md R230, R231): the running register holds the un-inverted
value. -/

namespace Sys2Proof

/-- `crc32_init` (R231). -/
def crc32Init : U32 := 0xFFFFFFFF

/-- One bit of `crc32_update`: shift right, and take the reflected polynomial when bit 0 was 1 (R231). -/
def crc32Bit (c : U32) : U32 := if c.getLsbD 0 then (c >>> 1) ^^^ 0xEDB88320 else c >>> 1

/-- `crc32_update` (R231). -/
def crc32Update (c : U32) (b : Byte) : U32 :=
  crc32Bit (crc32Bit (crc32Bit (crc32Bit (crc32Bit (crc32Bit (crc32Bit (crc32Bit
    (c ^^^ b.setWidth 32))))))))

/-- `crc32_update*`: fold over bytes, first byte first (R231). -/
def crc32Fold (c : U32) : List Byte → U32
  | [] => c
  | b :: bs => crc32Fold (crc32Update c b) bs

/-- `crc32_final` (R231). -/
def crc32Final (c : U32) : U32 := c ^^^ 0xFFFFFFFF

/-- `crc32` (R231). -/
def crc32 (bs : List Byte) : U32 := crc32Final (crc32Fold crc32Init bs)

end Sys2Proof
end

