-- ==== Sys2Proof/Machine/Packet.lean ====
section
/-! DEFINITION. The host packet layout (30_encoding.md R150-R154), used by the encoder, the decoder and the
frame builder. -/

namespace Sys2Proof

/-- Bytes `[0, 12+p)` of a packet: start marker, header, payload (R150, R152). -/
def packetBody (c : Config) (h : Header) (msgId : Byte) (payload : List Byte) : List Byte :=
  [c.startMarker] ++ bytesLe32 (u32 (payload.length + c.overhead)) ++ bytesLe32 h.sequence
    ++ [h.fromId, h.toId, msgId] ++ payload

/-- The end marker where the layout has one (R154). DEDUCED: the builder omits it too (notes/assumptions/17.md). -/
def endMarkerBytes (c : Config) : List Byte := if c.hasEndMarker then [c.endMarker] else []

/-- The whole packet: the body, the CRC of the body, the end marker (R150, R152, R154). -/
def packetBytes (c : Config) (h : Header) (msgId : Byte) (payload : List Byte) : List Byte :=
  packetBody c h msgId payload ++ bytesLe32 (crc32 (packetBody c h msgId payload)) ++ endMarkerBytes c

/-- `size_ok` (41_parser.md R246, 30_encoding.md R162): the payload sizes a message id admits. -/
def sizeOk (c : Config) (msgId : Byte) (p : Nat) : Bool :=
  if msgId = c.msg.ack ∨ msgId = c.msg.nak then p == 5
  else if msgId = c.msg.move then p == 24
  else if msgId = c.msg.feedback then p == 28
  else if msgId = c.msg.upload then p % 24 == 0
  else true

end Sys2Proof
end

