-- ==== Sys2Proof/WellFormed.lean ====
section
/-! DEFINITION. Which parameter sets may be run (00_scope.md R9, R10) and which instructions and requests an
encoding exists for. -/

namespace Sys2Proof

/-- The constraints of R9's table; a set that breaks one is refused (R10, I12). DEDUCED: RX_CAP and
TX_CAP are below 2^32, since the u32 element `count` reaches them (R32, R38; notes/assumptions/9.md). -/
def Config.valid (c : Config) : Bool :=
  List.all
    [ c.numAxes == 6,
      decide (12 ≤ c.rxCap), decide (c.rxCap < 2 ^ 32),
      decide (45 ≤ c.txCap), decide (c.txCap < 2 ^ 32),
      decide (c.overhead ≤ c.maxPacketSize), decide (c.maxPacketSize ≤ 2 ^ 32 - 1),
      decide (1 ≤ c.scratchWindow),
      decide (1 ≤ c.trajRows),
      decide c.msg.toList.Nodup,
      decide c.op.toList.Nodup,
      F32.lt c.posMin c.posMax, F32.lt c.velMin c.velMax, F32.lt c.curMin c.curMax,
      F32.lt F32.posZero c.angleLimit,
      F32.lt F32.posZero c.calStep,
      F32.le (F32.div c.calStep F32.two) c.calTol,
      decide (1 ≤ c.dwellTicks),
      decide (1 ≤ c.debounceN),
      decide c.canId.toList.Nodup,
      decide (2 ≤ c.canTxqDepth),
      decide (c.pdDuration.toNat < 2 ^ 24) ]
    id

/-- The sixteen message ids with an action of their own; every other value is UNKNOWN (R160, R161). -/
def MsgIds.named (m : MsgIds) : List Byte :=
  [m.heartbeat, m.enable, m.play, m.pause, m.stop, m.disable, m.upload, m.ack, m.nak, m.reset,
   m.quit, m.connect, m.disconnect, m.move, m.feedback, m.info]

/-- Whether `i` has an encoding under `c`: its payload fits MAX_PAYLOAD (R150), and UNKNOWN carries an id of
no other kind (R161). A motor frame always has one. -/
def Instr.wellFormed (c : Config) (i : Instr) : Bool :=
  match i with
  | .heartbeat _ p => decide (p.length ≤ c.maxPayload)
  | .enable _ p => decide (p.length ≤ c.maxPayload)
  | .play _ p => decide (p.length ≤ c.maxPayload)
  | .pause _ p => decide (p.length ≤ c.maxPayload)
  | .stop _ p => decide (p.length ≤ c.maxPayload)
  | .disable _ p => decide (p.length ≤ c.maxPayload)
  | .upload _ rows => decide (rowBytes * rows.length ≤ c.maxPayload)
  | .ack _ _ _ => decide (5 ≤ c.maxPayload)
  | .nak _ _ _ => decide (5 ≤ c.maxPayload)
  | .reset _ p => decide (p.length ≤ c.maxPayload)
  | .quit _ p => decide (p.length ≤ c.maxPayload)
  | .connect _ p => decide (p.length ≤ c.maxPayload)
  | .disconnect _ p => decide (p.length ≤ c.maxPayload)
  | .move _ _ => decide (rowBytes ≤ c.maxPayload)
  | .feedback _ _ => decide (28 ≤ c.maxPayload)
  | .info _ p => decide (p.length ≤ c.maxPayload)
  | .unknown _ m p => decide (m ∉ c.msg.named) && decide (p.length ≤ c.maxPayload)
  | .opResetConfig _ _ => true
  | .opRefreshConfig _ _ => true
  | .opModifyConfig _ _ => true
  | .opRetrieveConfig _ _ => true
  | .opStartMotor _ _ => true
  | .opStopMotor _ _ => true
  | .opTorqueCtrl _ _ => true
  | .opSpeedCtrl _ _ => true
  | .opPositionCtrl _ _ => true
  | .opStopCtrl _ _ => true
  | .opModifyParam _ _ => true
  | .opRetrieveParam _ _ => true
  | .opGetVersion _ _ => true
  | .opGetFault _ _ => true
  | .opAckFault _ _ => true
  | .opRetrieveIndicator _ _ => true

/-- Whether `r` is a frame: a raw7 argument has seven bytes (R292). -/
def Request.wellFormed (r : Request) : Bool :=
  match r with
  | .resetConfig => true
  | .refreshConfig => true
  | .modifyConfig arg => decide (arg.length = 7)
  | .retrieveConfig arg => decide (arg.length = 7)
  | .startMotor => true
  | .stopMotor => true
  | .torqueCtrl _ _ => true
  | .speedCtrl _ _ => true
  | .positionCtrl _ _ => true
  | .stopCtrl => true
  | .modifyParam arg => decide (arg.length = 7)
  | .retrieveParam arg => decide (arg.length = 7)
  | .getVersion => true
  | .getFault => true
  | .ackFault arg => decide (arg.length = 7)
  | .retrieveIndicator arg => decide (arg.length = 7)

end Sys2Proof
end

