-- ==== Sys2Proof/Decode.lean ====
section
/-! DEFINITION. The decoder, total on any wire and rejecting by name, and after it the encoder, both written
from the layouts of 30_encoding.md (R150-R177). -/

namespace Sys2Proof

/-- Why a wire is not an instruction. -/
inductive DecodeError where
  /-- fewer bytes than the packet declares or than a header needs (R258: the block waits for more) -/
  | truncated
  /-- byte 0 is not START_MARKER (R239: scanned and discarded) -/
  | noStartMarker
  /-- packetLength outside [OVERHEAD, MAX_PACKET_SIZE] (R245) -/
  | lengthError
  /-- the payload size is not one the kind admits (R246) -/
  | sizeError
  /-- the crc32 field is not the CRC of the body (R253) -/
  | crcError
  /-- the last byte is not END_MARKER (R253) -/
  | endMarkerError
  /-- bytes after the packet's last byte -/
  | trailingBytes
  /-- byte 0 of a frame is none of the sixteen opcodes (R176: recorded raw, otherwise ignored) -/
  | unknownOpcode
  deriving DecidableEq, Repr

/-- The instruction of a message id and payload (45_dispatcher.md R400). Every id outside the map is
UNKNOWN (R161). A payload of a size that the kind does not admit is no instruction (R162). -/
def decodeMessage (c : Config) (h : Header) (m : Byte) (pl : List Byte) : Except DecodeError Instr :=
  if !sizeOk c m pl.length then .error .sizeError
  else if m = c.msg.heartbeat then .ok (.heartbeat h pl)
  else if m = c.msg.enable then .ok (.enable h pl)
  else if m = c.msg.play then .ok (.play h pl)
  else if m = c.msg.pause then .ok (.pause h pl)
  else if m = c.msg.stop then .ok (.stop h pl)
  else if m = c.msg.disable then .ok (.disable h pl)
  else if m = c.msg.upload then .ok (.upload h ((List.range (pl.length / 24)).map (rowAt pl)))
  else if m = c.msg.ack then .ok (.ack h (wordAt pl 0) (pl.getD 4 0))
  else if m = c.msg.nak then .ok (.nak h (wordAt pl 0) (pl.getD 4 0))
  else if m = c.msg.reset then .ok (.reset h pl)
  else if m = c.msg.quit then .ok (.quit h pl)
  else if m = c.msg.connect then .ok (.connect h pl)
  else if m = c.msg.disconnect then .ok (.disconnect h pl)
  else if m = c.msg.move then .ok (.move h (rowAt pl 0))
  else if m = c.msg.feedback then .ok (.feedback h (feedbackOfBytes pl))
  else if m = c.msg.info then .ok (.info h pl)
  else .ok (.unknown h m pl)

/-- The checks after the 12 bytes of start marker and header, in the order of R450: length, size, then (once
the bytes are there) CRC, then end marker. `body12` is those 12 bytes, `rest` what follows them. -/
def decodeAfterHeader (c : Config) (body12 : List Byte) (len : U32) (h : Header) (m : Byte)
    (rest : List Byte) : Except DecodeError (Instr × List Byte) :=
  if len.toNat < c.overhead ∨ c.maxPacketSize < len.toNat then .error .lengthError
  else if !sizeOk c m (len.toNat - c.overhead) then .error .sizeError
  else if rest.length < len.toNat - c.overhead + c.footerSize then .error .truncated
  else
    let pl := rest.take (len.toNat - c.overhead)
    let footer := rest.drop (len.toNat - c.overhead)
    if wordAt footer 0 ≠ crc32 (body12 ++ pl) then .error .crcError
    else if c.hasEndMarker ∧ footer.getD 4 0 ≠ c.endMarker then .error .endMarkerError
    else
      match decodeMessage c h m pl with
      | .ok i => .ok (i, footer.drop c.footerSize)
      | .error e => .error e

/-- One packet at the head of a byte sequence, and the bytes after it (R150). -/
def decodePacket (c : Config) (bs : List Byte) : Except DecodeError (Instr × List Byte) :=
  match bs with
  | s :: l0 :: l1 :: l2 :: l3 :: q0 :: q1 :: q2 :: q3 :: f :: t :: m :: rest =>
    if s ≠ c.startMarker then .error .noStartMarker
    else decodeAfterHeader c [s, l0, l1, l2, l3, q0, q1, q2, q3, f, t, m] (le32 l0 l1 l2 l3)
      ⟨le32 q0 q1 q2 q3, f, t⟩ m rest
  | [] => .error .truncated
  | s :: _ => if s ≠ c.startMarker then .error .noStartMarker else .error .truncated

/-- The instruction of a CAN frame, by its opcode (R170, R174-R176). -/
def decodeFrame (c : Config) (id : CanId) (f : Frame) : Except DecodeError Instr :=
  if f.b0 = c.op.resetConfig then .ok (.opResetConfig id (rawFields f))
  else if f.b0 = c.op.refreshConfig then .ok (.opRefreshConfig id (rawFields f))
  else if f.b0 = c.op.modifyConfig then .ok (.opModifyConfig id (rawFields f))
  else if f.b0 = c.op.retrieveConfig then .ok (.opRetrieveConfig id (rawFields f))
  else if f.b0 = c.op.startMotor then .ok (.opStartMotor id (rawFields f))
  else if f.b0 = c.op.stopMotor then .ok (.opStopMotor id (rawFields f))
  else if f.b0 = c.op.torqueCtrl then .ok (.opTorqueCtrl id (controlFields f))
  else if f.b0 = c.op.speedCtrl then .ok (.opSpeedCtrl id (controlFields f))
  else if f.b0 = c.op.positionCtrl then .ok (.opPositionCtrl id (controlFields f))
  else if f.b0 = c.op.stopCtrl then .ok (.opStopCtrl id (rawFields f))
  else if f.b0 = c.op.modifyParam then .ok (.opModifyParam id (rawFields f))
  else if f.b0 = c.op.retrieveParam then .ok (.opRetrieveParam id (rawFields f))
  else if f.b0 = c.op.getVersion then .ok (.opGetVersion id (rawFields f))
  else if f.b0 = c.op.getFault then .ok (.opGetFault id (rawFields f))
  else if f.b0 = c.op.ackFault then .ok (.opAckFault id (rawFields f))
  else if f.b0 = c.op.retrieveIndicator then .ok (.opRetrieveIndicator id (rawFields f))
  else .error .unknownOpcode

/-- The decoder: exactly one packet, or one frame. -/
def decode (c : Config) (w : Wire) : Except DecodeError Instr :=
  match w with
  | .packet bs =>
    match decodePacket c bs with
    | .ok (i, []) => .ok i
    | .ok (_, _ :: _) => .error .trailingBytes
    | .error e => .error e
  | .frame id f => decodeFrame c id f

/-- The encoder, from the same layouts: a host packet (R150, payloads R163-R166) or a reply frame
(R174, R175). -/
def encode (c : Config) (i : Instr) : Wire :=
  match i with
  | .heartbeat h p => .packet (packetBytes c h c.msg.heartbeat p)
  | .enable h p => .packet (packetBytes c h c.msg.enable p)
  | .play h p => .packet (packetBytes c h c.msg.play p)
  | .pause h p => .packet (packetBytes c h c.msg.pause p)
  | .stop h p => .packet (packetBytes c h c.msg.stop p)
  | .disable h p => .packet (packetBytes c h c.msg.disable p)
  | .upload h rows => .packet (packetBytes c h c.msg.upload (rowsToBytes rows))
  | .ack h q m => .packet (packetBytes c h c.msg.ack (answerToBytes q m))
  | .nak h q m => .packet (packetBytes c h c.msg.nak (answerToBytes q m))
  | .reset h p => .packet (packetBytes c h c.msg.reset p)
  | .quit h p => .packet (packetBytes c h c.msg.quit p)
  | .connect h p => .packet (packetBytes c h c.msg.connect p)
  | .disconnect h p => .packet (packetBytes c h c.msg.disconnect p)
  | .move h row => .packet (packetBytes c h c.msg.move (rowToBytes row))
  | .feedback h fb => .packet (packetBytes c h c.msg.feedback (feedbackToBytes fb))
  | .info h p => .packet (packetBytes c h c.msg.info p)
  | .unknown h m p => .packet (packetBytes c h m p)
  | .opResetConfig id r => .frame id (encRawReply c.op.resetConfig r)
  | .opRefreshConfig id r => .frame id (encRawReply c.op.refreshConfig r)
  | .opModifyConfig id r => .frame id (encRawReply c.op.modifyConfig r)
  | .opRetrieveConfig id r => .frame id (encRawReply c.op.retrieveConfig r)
  | .opStartMotor id r => .frame id (encRawReply c.op.startMotor r)
  | .opStopMotor id r => .frame id (encRawReply c.op.stopMotor r)
  | .opTorqueCtrl id r => .frame id (encControl c.op.torqueCtrl r)
  | .opSpeedCtrl id r => .frame id (encControl c.op.speedCtrl r)
  | .opPositionCtrl id r => .frame id (encControl c.op.positionCtrl r)
  | .opStopCtrl id r => .frame id (encRawReply c.op.stopCtrl r)
  | .opModifyParam id r => .frame id (encRawReply c.op.modifyParam r)
  | .opRetrieveParam id r => .frame id (encRawReply c.op.retrieveParam r)
  | .opGetVersion id r => .frame id (encRawReply c.op.getVersion r)
  | .opGetFault id r => .frame id (encRawReply c.op.getFault r)
  | .opAckFault id r => .frame id (encRawReply c.op.ackFault r)
  | .opRetrieveIndicator id r => .frame id (encRawReply c.op.retrieveIndicator r)

/-- The payload size of the table's word for a message id: the one its kind requires, or 0 (R162). -/
def tablePayloadSize (c : Config) (m : Byte) : Nat :=
  if m = c.msg.ack ∨ m = c.msg.nak then 5
  else if m = c.msg.move then 24
  else if m = c.msg.feedback then 28
  else 0

/-- The wire that a word of spec/opcode_table.json stands for. The table's 8 bits are the selector: byte 0 of
a motor frame, byte 11 of a host packet. A motor frame has its further bytes from the bits above (zero
beyond `nbits`) and comes from axis 0; a host packet is the well-framed one with that message id and zero
sequence, ids and payload (notes/assumptions/7.md). -/
def tableWire (c : Config) (nbits w : Nat) : Wire :=
  let v : BitVec 64 := BitVec.ofNat 64 (w % 2 ^ nbits)
  if byteAt v 0 ∈ c.op.toList then
    .frame (c.canId.get 0) ⟨byteAt v 0, byteAt v 1, byteAt v 2, byteAt v 3, byteAt v 4, byteAt v 5,
      byteAt v 6, byteAt v 7⟩
  else
    .packet (packetBytes c ⟨0, 0, 0⟩ (byteAt v 0) (List.replicate (tablePayloadSize c (byteAt v 0)) 0))

/-- The instruction the decoder reads from a word of the opcode table, under the default parameters. -/
def decodeTableWord (nbits w : Nat) : Option Instr :=
  match decode Config.default (tableWire Config.default nbits w) with
  | .ok i => some i
  | .error _ => none

end Sys2Proof
end

