-- ==== Sys2Proof/Machine/Memory.lean ====
section
/-! DEFINITION. Byte storage (20_memory.md R100): each buffer is an address space of its own, indexed by a
byte offset from 0. It is held as address and byte pairs in one canonical form: addresses strictly rising, no
entry equal to what an unlisted address reads as. -/

namespace Sys2Proof.Machine

/-- One buffer's bytes, in canonical form (`Memory.wf`). -/
abbrev Memory := List Host.Cell

/-- DESIGN CHOICE, unsafe: what a byte that nothing has written reads as. R470 and D54 leave it open ("any
value") and no rule reads such a byte (notes/assumptions/4.md). -/
def Memory.unwritten : Byte := 0

/-- The byte at offset `a`. -/
def Memory.read (m : Memory) (a : Nat) : Byte :=
  match m with
  | [] => Memory.unwritten
  | (k, v) :: t => if k = a then v else Memory.read t a

/-- The list with the entry for `a` set to `b`, in address order. -/
def Memory.insert (m : Memory) (a : Nat) (b : Byte) : Memory :=
  match m with
  | [] => [(a, b)]
  | (k, v) :: t =>
    if a < k then (a, b) :: (k, v) :: t
    else if a = k then (a, b) :: t
    else (k, v) :: Memory.insert t a b

/-- The list without an entry for `a`. -/
def Memory.erase (m : Memory) (a : Nat) : Memory :=
  match m with
  | [] => []
  | (k, v) :: t => if k = a then t else (k, v) :: Memory.erase t a

/-- Byte `b` stored at offset `a`; writing what an unlisted address reads as removes the entry. -/
def Memory.write (m : Memory) (a : Nat) (b : Byte) : Memory :=
  if b = Memory.unwritten then Memory.erase m a else Memory.insert m a b

/-- `MemWrite(buf, off, n, v)` of R14, byte by byte. -/
def Memory.writeBytes (m : Memory) (off : Nat) (bs : List Byte) : Memory :=
  match bs with
  | [] => m
  | b :: t => Memory.writeBytes (Memory.write m off b) (off + 1) t

/-- `MemRead(buf, off, n)` of R14. -/
def Memory.readBytes (m : Memory) (off n : Nat) : List Byte :=
  match n with
  | 0 => []
  | k + 1 => Memory.read m off :: Memory.readBytes m (off + 1) k

/-- Whether every listed address is at least `lo`, the addresses rise, and no entry is `unwritten`. -/
def Memory.wfFrom (lo : Nat) (m : Memory) : Bool :=
  match m with
  | [] => true
  | (k, v) :: t => decide (lo ≤ k) && decide (v ≠ Memory.unwritten) && Memory.wfFrom (k + 1) t

/-- The canonical form. -/
def Memory.wf (m : Memory) : Bool := Memory.wfFrom 0 m

/-- Whether every listed address lies inside a buffer of `n` bytes. -/
def Memory.within (n : Nat) (m : Memory) : Bool := m.all fun cell => decide (cell.1 < n)

end Sys2Proof.Machine
end

