-- ==== Sys2Proof/Machine/State.lean ====
section
/-! DEFINITION. The block's state (10_state.md R30-R55), what travels over its ports, the parameters of the
instance, and the state right after reset (70_reset_and_hazards.md R470-R472). -/

namespace Sys2Proof.Machine

/-- Why a step stops without a next state. Neither reason can arise from a state that meets
`State.Inv` (Safety.lean). -/
inductive Fault where
  /-- Raised by the calibration step of axis `i` for a stage in 7..254: "A model that meets one in the
  calibration step faults (it does not guess a meaning)" (R362, R455, I13). Safe. -/
  | illegalStage (i : Fin 6)
  /-- Raised by the payload step for a byte beyond MAX_PAYLOAD, an offset PB does not have (R34, R100). Safe. -/
  | payloadOutsideBuffer
  /-- Raised by playback for a row index at or beyond TRAJ_ROWS, which the trajectory buffer does not have
  (R37, R100). Safe. -/
  | rowOutsideBuffer
  /-- Raised by the PacketComplete step for a valid descriptor whose payload size its message kind does not
  admit: the header check never lets one through (R246). Safe. -/
  | unadmittedPacket
  deriving DecidableEq, Repr

/-- Why an instruction or a step has no meaning. -/
inductive Refusal where
  /-- Raised by an arm of `exec` for an instruction without a meaning. No arm raises it. Safe. -/
  | notModelled (mnemonic : String)
  /-- Raised by every step of an instance whose parameters break R9: "an instantiation that violates one is
  refused, not run" (R10, R455, I12). Safe. -/
  | parametersRefused
  deriving DecidableEq, Repr

/-- The parser state `S.pstate` (R33); its 2-bit code is `PState.code`. -/
inductive PState where
  | awaitStart
  | awaitHeader
  | awaitPayloadCrc
  | packetComplete
  deriving DecidableEq, Repr

/-- The encoding of R33 (D53). -/
def PState.code (p : PState) : BitVec 2 :=
  match p with
  | .awaitStart => 0
  | .awaitHeader => 1
  | .awaitPayloadCrc => 2
  | .packetComplete => 3

/-- The place in the main loop's cyclic order `RX_POLL, PARSE_STEP, CAN_DRAIN` (R121): which of the three
comes next. -/
inductive LoopSlot where
  | rxPoll
  | parseStep
  | canDrain
  deriving DecidableEq, Repr

/-- One entry of the environment's schedule (R121, R181). `mainLoop` lets the next main-loop event occur;
`offer` appends bytes to what RX_IN offers; the others are the asynchronous events with their port data. -/
inductive Event where
  | mainLoop
  | offer (bytes : List Byte)
  | tick (limit : Six Bool)
  | canRx (id : CanId) (data : Frame)
  | txDrain (k : Nat)
  | reset
  deriving DecidableEq, Repr

/-- A ring buffer `{mem, head, tail, count}` (R32, R38, R200); its capacity is RX_CAP or TX_CAP. -/
structure Ring where
  mem   : Memory
  head  : U32
  tail  : U32
  count : U32
  deriving DecidableEq, Repr

/-- The packet descriptor `S.info` (R35). -/
structure PacketInfo where
  length      : U32
  sequence    : U32
  payloadSize : U32
  fromId      : Byte
  toId        : Byte
  msgId       : Byte
  isValid     : Bool
  deriving DecidableEq, Repr

/-- The global diagnostic counters and CRC capture registers (R41), each u32. -/
structure Counters where
  rxOkCount           : U32
  rxDiscardCount      : U32
  rxLengthErrCount    : U32
  rxSizeErrCount      : U32
  rxCrcErrCount       : U32
  rxEndErrCount       : U32
  uploadNakCount      : U32
  moveNakCount        : U32
  unknownMsgCount     : U32
  canRxUnknownIdCount : U32
  txTruncCount        : U32
  lastExpectedCrc     : U32
  lastComputedCrc     : U32
  deriving DecidableEq, Repr

/-- One axis record `A[i]` (R44-R51). Its constants (R43) are the instance's parameters. -/
structure Axis where
  stage          : Byte
  dwell          : U32
  angle1         : F32
  angle2         : F32
  offset         : F32
  sw             : Bool
  debCount       : Byte
  armed          : Bool
  calibrated     : Bool
  doCalibration  : Bool
  newTelemetry   : Bool
  theta          : F32
  omega          : F32
  tau            : F32
  setPoint       : F32
  temperature    : Byte
  p              : F32
  d              : F32
  vLim           : F32
  txFrame        : Frame
  rxFrame        : Frame
  txTs           : U32
  rxTs           : U32
  txq            : List Frame
  fb             : Feedback
  motorErrCount  : U32
  canTxDropCount : U32
  deriving DecidableEq, Repr

/-- The state of the block with its ports.

The MODEL's own fields, none of them state of the block (R55): `cfg`, the parameters of the instance, which no
event writes; `pending`, the environment's choice of what occurs next; `rxIn`, the bytes offered on RX_IN and not
yet taken; `txOut` and `canOut`, what TX_OUT and CAN_TX have delivered, oldest first; and `slot`, the place in the
main loop's cyclic order (R121). DESIGN CHOICE, safe: notes/assumptions/1.md, 2.md and 3.md. -/
structure State where
  cfg         : Config
  pending     : List Event
  rxIn        : List Byte
  txOut       : List Byte
  canOut      : List (CanId × Frame)
  slot        : LoopSlot
  rx          : Ring
  pstate      : PState
  crc         : U32
  payloadRead : U32
  pb          : Memory
  info        : PacketInfo
  playing     : Bool
  traj        : Memory
  arrayLength : U32
  trajIndex   : U32
  tx          : Ring
  txSeq       : U32
  tickCount   : U32
  counters    : Counters
  axes        : Six Axis
  deriving DecidableEq, Repr

/-- An empty ring buffer: `head = tail = count = 0` (R32), nothing written. -/
def Ring.empty : Ring := ⟨[], 0, 0, 0⟩

/-- "*Empty* means every numeric field 0 and `isValid = false`" (R35). -/
def PacketInfo.empty : PacketInfo := ⟨0, 0, 0, 0, 0, 0, false⟩

/-- Every counter and capture register 0 (R41). -/
def Counters.zero : Counters := ⟨0, 0, 0, 0, 0, 0, 0, 0, 0, 0, 0, 0, 0⟩

/-- 28 zero bytes (R50). -/
def Feedback.zero : Feedback := ⟨0, 0, 0, 0, 0, 0, 0, 0, 0, 0⟩

/-- An axis record after reset (R44-R51, R52, R470): the idle gain set, stage 255, all else zero, false or
empty. -/
def Axis.reset (c : Config) : Axis where
  stage          := 255
  dwell          := 0
  angle1         := F32.posZero
  angle2         := F32.posZero
  offset         := F32.posZero
  sw             := false
  debCount       := 0
  armed          := false
  calibrated     := false
  doCalibration  := false
  newTelemetry   := false
  theta          := F32.posZero
  omega          := F32.posZero
  tau            := F32.posZero
  setPoint       := F32.posZero
  temperature    := 0
  p              := c.pIdle
  d              := c.dIdle
  vLim           := c.vLimIdle
  txFrame        := Frame.zero
  rxFrame        := Frame.zero
  txTs           := 0
  rxTs           := 0
  txq            := []
  fb             := Feedback.zero
  motorErrCount  := 0
  canTxDropCount := 0

/-- An instance with parameters `c` just powered on, "power-on equals RESET" (R470, R471), with nothing
offered and nothing scheduled; the next main-loop event is RX_POLL (R472). -/
def State.powerOn (c : Config) : State where
  cfg         := c
  pending     := []
  rxIn        := []
  txOut       := []
  canOut      := []
  slot        := .rxPoll
  rx          := Ring.empty
  pstate      := .awaitStart
  crc         := crc32Init
  payloadRead := 0
  pb          := []
  info        := PacketInfo.empty
  playing     := false
  traj        := []
  arrayLength := 0
  trajIndex   := 0
  tx          := Ring.empty
  txSeq       := 0
  tickCount   := 0
  counters    := Counters.zero
  axes        := Six.replicate (Axis.reset c)

/-- The machine right after reset, with the default parameters of R9. -/
def State.reset : State := State.powerOn Config.default

end Sys2Proof.Machine
end

