-- ==== Sys2Proof/Machine/Ops.lean ====
section
/-! DEFINITION. The named operations over state: the ring buffers (40_ringbuffer.md), the axis records, the one
operation that raises an error condition (60_exceptions.md R440, R441: the block's counterpart of taking an
exception; R456, R457: nothing is saved, nothing is transferred, nothing returns), the CAN transmit queue, and the
frame builder (42_framecodec.md). -/

namespace Sys2Proof.Machine

/-! Ring buffers. `n` is the capacity. -/

/-- `free(X)` (R205); `avail(X)` is `X.count`. -/
def Ring.free (n : Nat) (r : Ring) : Nat := n - r.count.toNat

/-- The `k`-th oldest byte, `mem[(tail + k) mod N]` (R32, R200). -/
def Ring.peek (n : Nat) (r : Ring) (k : Nat) : Byte := Memory.read r.mem ((r.tail.toNat + k) % n)

/-- `content(X)` (R200), oldest first. -/
def Ring.content (n : Nat) (r : Ring) : List Byte := (List.range r.count.toNat).map (Ring.peek n r)

/-- `push` (R201); the Bool says whether the byte was stored. -/
def Ring.push (n : Nat) (r : Ring) (b : Byte) : Ring × Bool :=
  if r.count.toNat = n then (r, false)
  else
    ({ mem := Memory.write r.mem (r.head.toNat % n) b, head := u32 ((r.head.toNat + 1) % n), tail := r.tail,
       count := r.count + 1 }, true)

/-- `pop` (R202). -/
def Ring.pop (n : Nat) (r : Ring) : Option (Byte × Ring) :=
  if r.count = 0 then none
  else some (Ring.peek n r 0, { r with tail := u32 ((r.tail.toNat + 1) % n), count := r.count - 1 })

/-- `readBytes` (R203): the bytes transferred and the buffer after. -/
def Ring.readBytes (n : Nat) (r : Ring) (want : Nat) : List Byte × Ring :=
  let k := min want r.count.toNat
  ((List.range k).map (Ring.peek n r),
   { r with tail := u32 ((r.tail.toNat + k) % n), count := u32 (r.count.toNat - k) })

/-- The bytes of `src` stored from position `pos` on, wrapping at the capacity (R204). -/
def Ring.store (n : Nat) (m : Memory) (pos : Nat) (src : List Byte) : Memory :=
  match src with
  | [] => m
  | b :: t => Ring.store n (Memory.write m (pos % n) b) (pos + 1) t

/-- `writeBytes` (R204): the buffer after and the count transferred; what does not fit is dropped. -/
def Ring.writeBytes (n : Nat) (r : Ring) (src : List Byte) : Ring × Nat :=
  let k := min src.length (Ring.free n r)
  ({ mem := Ring.store n r.mem r.head.toNat (src.take k), head := u32 ((r.head.toNat + k) % n), tail := r.tail,
     count := u32 (r.count.toNat + k) }, k)

/-- The loop of `consumeUntil`, at most `fuel` pops; `d` bytes have been discarded so far. -/
def Ring.consumeLoop (n : Nat) (marker : Byte) (fuel : Nat) (r : Ring) (d : Nat) : Bool × Nat × Ring :=
  match fuel with
  | 0 => (false, d, r)
  | fuel + 1 =>
    match Ring.pop n r with
    | none => (false, d, r)
    | some (b, r') => if b = marker then (true, d, r') else Ring.consumeLoop n marker fuel r' (d + 1)

/-- `consumeUntil` (R206): whether the marker was found, how many bytes were discarded before it, and the buffer
after. Each pop takes a byte, so `count` pops end the loop. -/
def Ring.consumeUntil (n : Nat) (r : Ring) (marker : Byte) : Bool × Nat × Ring :=
  Ring.consumeLoop n marker r.count.toNat r 0

/-! Axis records. -/

/-- The axis indices in the order in which every event visits them (R378, R380). -/
def axisOrder : List (Fin 6) := [0, 1, 2, 3, 4, 5]

/-- `A[i]`. -/
def State.axis (s : State) (i : Fin 6) : Axis := s.axes.get i

/-- `A[i] <- f A[i]`. -/
def State.modifyAxis (s : State) (i : Fin 6) (f : Axis → Axis) : State :=
  { s with axes := s.axes.set i (f (s.axes.get i)) }

/-- `f` on every axis. -/
def State.mapAxes (s : State) (f : Axis → Axis) : State := { s with axes := s.axes.map f }

/-- `f i` on every axis `i`. -/
def State.mapAxesIdx (s : State) (f : Fin 6 → Axis → Axis) : State := { s with axes := s.axes.mapIdx f }

/-! Error conditions. -/

/-- The twelve conditions of R440, with what R441 records of each. -/
inductive Condition where
  | discard (d : Nat)
  | lengthError
  | sizeError
  | crcError (expected computed : U32)
  | endMarkerError
  | capacityError
  | moveRejected
  | unknownMessage
  | canUnknownId
  | motorError (i : Fin 6)
  | txTruncation
  | canTxDrop (i : Fin 6)
  deriving DecidableEq, Repr

/-- The number of a condition in the order of R440. -/
def Condition.number (c : Condition) : Nat :=
  match c with
  | .discard _ => 1
  | .lengthError => 2
  | .sizeError => 3
  | .crcError _ _ => 4
  | .endMarkerError => 5
  | .capacityError => 6
  | .moveRejected => 7
  | .unknownMessage => 8
  | .canUnknownId => 9
  | .motorError _ => 10
  | .txTruncation => 11
  | .canTxDrop _ => 12

/-- The axis counter of MotorError (R441, R51). -/
def Axis.countMotorErr (a : Axis) : Axis := { a with motorErrCount := a.motorErrCount + 1 }

/-- The axis counter of CanTxDrop (R441, R51). -/
def Axis.countTxDrop (a : Axis) : Axis := { a with canTxDropCount := a.canTxDropCount + 1 }

/-- `raise E(info)` (R14): the counter and record of the condition's row in R441, and nothing else. The rule that
raised it goes on with its own recovery action. -/
def raise (c : Condition) (s : State) : State :=
  match c with
  | .discard d =>
    { s with counters := { s.counters with rxDiscardCount := s.counters.rxDiscardCount + u32 d } }
  | .lengthError => { s with counters := { s.counters with rxLengthErrCount := s.counters.rxLengthErrCount + 1 } }
  | .sizeError => { s with counters := { s.counters with rxSizeErrCount := s.counters.rxSizeErrCount + 1 } }
  | .crcError expected computed =>
    { s with counters := { s.counters with
        rxCrcErrCount := s.counters.rxCrcErrCount + 1
        lastExpectedCrc := expected
        lastComputedCrc := computed } }
  | .endMarkerError => { s with counters := { s.counters with rxEndErrCount := s.counters.rxEndErrCount + 1 } }
  | .capacityError => { s with counters := { s.counters with uploadNakCount := s.counters.uploadNakCount + 1 } }
  | .moveRejected => { s with counters := { s.counters with moveNakCount := s.counters.moveNakCount + 1 } }
  | .unknownMessage => { s with counters := { s.counters with unknownMsgCount := s.counters.unknownMsgCount + 1 } }
  | .canUnknownId =>
    { s with counters := { s.counters with canRxUnknownIdCount := s.counters.canRxUnknownIdCount + 1 } }
  | .motorError i => s.modifyAxis i Axis.countMotorErr
  | .txTruncation => { s with counters := { s.counters with txTruncCount := s.counters.txTruncCount + 1 } }
  | .canTxDrop i => s.modifyAxis i Axis.countTxDrop

/-! The CAN transmit queue. -/

/-- `txq_push` on one axis record (R377): a full queue drops the new frame and counts the drop. -/
def Axis.txqPush (c : Config) (f : Frame) (a : Axis) : Axis :=
  if a.txq.length = c.canTxqDepth then a.countTxDrop else { a with txq := a.txq ++ [f] }

/-! The frame builder. -/

/-- The frame `send_packet` builds (R271): `fromId = NODE_ID` and `sequence = txSeq` (R272). -/
def outFrame (s : State) (msgId toId : Byte) (payload : List Byte) : List Byte :=
  packetBytes s.cfg ⟨s.txSeq, s.cfg.nodeId, toId⟩ msgId payload

/-- `send_packet` (R271): a frame that does not fit is written in part and counted; `txSeq` advances either
way. -/
def sendPacket (msgId toId : Byte) (payload : List Byte) (s : State) : State :=
  let frame := outFrame s msgId toId payload
  let w := Ring.writeBytes s.cfg.txCap s.tx frame
  let s1 := { s with tx := w.1, txSeq := s.txSeq + 1 }
  if w.2 < frame.length then raise .txTruncation s1 else s1

/-- `send_ack` (R273) for a packet with header `h` and id `answered`. -/
def sendAck (h : Header) (answered : Byte) (s : State) : State :=
  sendPacket s.cfg.msg.ack h.fromId (answerToBytes h.sequence answered) s

/-- `send_nak` (R274). -/
def sendNak (h : Header) (answered : Byte) (s : State) : State :=
  sendPacket s.cfg.msg.nak h.fromId (answerToBytes h.sequence answered) s

/-- `send_feedback(i)` (R275): the axis's snapshot, to HOST_ID. -/
def sendFeedback (i : Fin 6) (s : State) : State :=
  sendPacket s.cfg.msg.feedback s.cfg.hostId (feedbackToBytes (s.axis i).fb) s

end Sys2Proof.Machine
end

