-- ==== Sys2Proof/Machine/Operands.lean ====
section
/-! DEFINITION. How operands reach the axes: the CAN routing, the frame transforms, the clamp, the setpoint path
of MOVE and playback, and the rows of the trajectory buffer (44_axis_controller.md sections 4 and 5). -/

namespace Sys2Proof.Machine

/-- The axis whose CAN_ID is `id` (R177); R9 makes the identifiers distinct. -/
def axisOfCanId (c : Config) (id : CanId) : Option (Fin 6) :=
  if c.canId.x0 = id then some 0
  else if c.canId.x1 = id then some 1
  else if c.canId.x2 = id then some 2
  else if c.canId.x3 = id then some 3
  else if c.canId.x4 = id then some 4
  else if c.canId.x5 = id then some 5
  else none

/-- `dirf` (R353): +1.0 or −1.0. -/
def dirf (d : Direction) : F32 :=
  match d with
  | .plus => F32.one
  | .minus => F32.minusOne

/-- `clampAngle` (R369). -/
def clampAngle (c : Config) (b : F32) : F32 :=
  if F32.lt b (F32.neg c.angleLimit) then F32.neg c.angleLimit
  else if F32.lt c.angleLimit b then c.angleLimit
  else b

/-- `toMotor(i, b)` (R370). -/
def toMotor (d : Direction) (a : Axis) (b : F32) : F32 := F32.add (F32.mul b (dirf d)) a.offset

/-- `toBody(i, m)` (R370). -/
def toBody (d : Direction) (a : Axis) (m : F32) : F32 := F32.mul (F32.sub m a.offset) (dirf d)

/-- `toBodyRate(i, x)` (R370). -/
def toBodyRate (d : Direction) (x : F32) : F32 := F32.mul x (dirf d)

/-- The calibration gate (R353): requested and not yet done. -/
def Axis.calibrating (a : Axis) : Bool := a.doCalibration && !a.calibrated

/-- `apply_external_setpoint` (R371): discarded while calibration owns the setpoint, and for a NaN. -/
def Axis.applySetpoint (c : Config) (d : Direction) (b : F32) (a : Axis) : Axis :=
  if a.calibrating then a
  else if F32.isNaN b then a
  else { a with setPoint := toMotor d a (clampAngle c b) }

/-- One row of external setpoints, axis by axis (R381, R413). -/
def applyRow (row : Row) (s : State) : State :=
  s.mapAxesIdx fun i a => a.applySetpoint s.cfg (s.cfg.direction.get i) (row.get i)

/-- Row `r` of the trajectory buffer (R100, R104). -/
def trajRow (traj : Memory) (r : Nat) : Row := rowAt (Memory.readBytes traj (rowBytes * r) rowBytes) 0

/-- The engaged gain set (R368). -/
def Axis.engage (c : Config) (a : Axis) : Axis :=
  { a with p := c.pEngaged, d := c.dEngaged, vLim := c.vLimEngaged }

/-- The idle gain set (R368). -/
def Axis.idle (c : Config) (a : Axis) : Axis := { a with p := c.pIdle, d := c.dIdle, vLim := c.vLimIdle }

end Sys2Proof.Machine
end

