-- ==== Sys2Proof/Machine/Flags.lean ====
section
/-! DEFINITION. The flags (10_state.md R36, R45, R46): the debounced limit switch, the flags byte of a FEEDBACK
payload, and the verdict flags of a packet's footer. -/

namespace Sys2Proof.Machine

/-- `debounce(i, raw)` (R352): `sw` follows after DEBOUNCE_N consecutive disagreeing samples. -/
def Axis.debounce (c : Config) (raw : Bool) (a : Axis) : Axis :=
  if raw = a.sw then { a with debCount := 0 }
  else if c.debounceN ≤ (a.debCount + 1).toNat then { a with sw := raw, debCount := 0 }
  else { a with debCount := a.debCount + 1 }

/-- The flags byte of R165 and R383: armed·1 + calibrated·2 + doCalibration·4 + sw·8. -/
def Axis.flagsByte (a : Axis) : Byte :=
  BitVec.ofNat 8 (a.armed.toNat + 2 * a.calibrated.toNat + 4 * a.doCalibration.toNat + 8 * a.sw.toNat)

/-- `crcOk` (R251) for the footer bytes `f` and the running register `crc`. -/
def footerCrcOk (crc : U32) (f : List Byte) : Bool := wordAt f 0 == crc32Final crc

/-- `endOk` (R251): true where the layout has no end marker. -/
def footerEndOk (c : Config) (f : List Byte) : Bool := !c.hasEndMarker || f.getD 4 0 == c.endMarker

end Sys2Proof.Machine
end

