-- ==== Sys2Proof/Machine/AxisControl.lean ====
section
/-! DEFINITION. What one axis does in a TICK (44_axis_controller.md sections 2, 3 and 6): the calibration step,
the PD law and its clamp, the feedback snapshot. -/

namespace Sys2Proof.Machine

/-- The setpoint moved by one calibration step, forward in the configured direction (R355, R359). -/
def Axis.stepForward (c : Config) (d : Direction) (a : Axis) : Axis :=
  { a with setPoint := F32.add a.setPoint (F32.mul (dirf d) c.calStep) }

/-- The setpoint moved by one calibration step, against the configured direction (R357, R358). -/
def Axis.stepBack (c : Config) (d : Direction) (a : Axis) : Axis :=
  { a with setPoint := F32.sub a.setPoint (F32.mul (dirf d) c.calStep) }

/-- Stage 255, snap (R354). -/
def Axis.calSnap (a : Axis) : Axis := { a with setPoint := a.theta, stage := 0 }

/-- Stage 0, drive toward the switch (R355). -/
def Axis.calSeek (c : Config) (d : Direction) (a : Axis) : Axis :=
  if a.sw then { a with stage := 1, dwell := 0 } else a.stepForward c d

/-- Stage 1, dwell (R356). -/
def Axis.calDwell (c : Config) (a : Axis) : Axis :=
  let a' := { a with dwell := a.dwell + 1 }
  if c.dwellTicks ≤ a'.dwell.toNat then { a' with stage := 2 } else a'

/-- Stage 2, back off until the switch releases, recording `angle1` (R357). -/
def Axis.calBackOff (c : Config) (d : Direction) (a : Axis) : Axis :=
  if a.sw then a.stepBack c d else { a with angle1 := a.theta, stage := 3 }

/-- Stage 3, drive the opposite direction toward the switch (R358). -/
def Axis.calSeekOpposite (c : Config) (d : Direction) (a : Axis) : Axis :=
  if a.sw then { a with stage := 4 } else a.stepBack c d

/-- Stage 4, back off again, recording `angle2` and the zero offset (R359). -/
def Axis.calBackOffOpposite (c : Config) (d : Direction) (a : Axis) : Axis :=
  if a.sw then a.stepForward c d
  else
    { a with
      angle2 := a.theta
      offset := F32.div (F32.add a.angle1 a.theta) F32.two
      stage := 5 }

/-- Stage 5, converge the setpoint to the zero offset (R360). -/
def Axis.calConverge (c : Config) (a : Axis) : Axis :=
  let e := F32.sub a.offset a.setPoint
  if F32.le (F32.abs e) c.calTol then { a with stage := 6 }
  else if F32.lt F32.posZero e then { a with setPoint := F32.add a.setPoint c.calStep }
  else { a with setPoint := F32.sub a.setPoint c.calStep }

/-- Stage 6, finish (R361). -/
def Axis.calFinish (a : Axis) : Axis := { a with calibrated := true, doCalibration := false, stage := 0 }

/-- The work of exactly one stage (R353); none for a stage in 7..254 (R362). -/
def Axis.calStage (c : Config) (d : Direction) (a : Axis) : Option Axis :=
  if a.stage = 255 then some a.calSnap
  else if a.stage = 0 then some (a.calSeek c d)
  else if a.stage = 1 then some (a.calDwell c)
  else if a.stage = 2 then some (a.calBackOff c d)
  else if a.stage = 3 then some (a.calSeekOpposite c d)
  else if a.stage = 4 then some (a.calBackOffOpposite c d)
  else if a.stage = 5 then some (a.calConverge c)
  else if a.stage = 6 then some a.calFinish
  else none

/-- The calibration step behind its gate (R353). -/
def Axis.calibrate (c : Config) (d : Direction) (a : Axis) : Option Axis :=
  if a.calibrating then a.calStage c d else some a

/-- The PD law (R365). -/
def Axis.pdLaw (a : Axis) : F32 :=
  F32.sub (F32.mul (F32.sub a.setPoint a.theta) a.p) (F32.mul a.omega a.d)

/-- The clamp to ±vLim; a NaN becomes 0.0 (R366). -/
def clampVelocity (vLim v : F32) : F32 :=
  if F32.isNaN v then F32.posZero
  else if F32.lt vLim v then vLim
  else if F32.lt v (F32.neg vLim) then F32.neg vLim
  else v

/-- The PD command of an armed axis, queued (R367); an axis that is not armed does nothing. -/
def Axis.pdIssue (c : Config) (a : Axis) : Axis :=
  if a.armed then
    a.txqPush c (encF32Dur c.op.speedCtrl (clampVelocity a.vLim a.pdLaw) c.pdDuration)
  else a

/-- `snapshot(i)` (R383), in body frame. -/
def Axis.snapshot (axisId : Byte) (d : Direction) (a : Axis) : Feedback where
  axisId      := axisId
  stage       := a.stage
  flags       := a.flagsByte
  temperature := a.temperature
  angle       := toBody d a a.theta
  velocity    := toBodyRate d a.omega
  torque      := toBodyRate d a.tau
  setPoint    := toBody d a a.setPoint
  rxTs        := a.rxTs
  txTs        := a.txTs

/-- `feedback(i)` (R382): snapshot, FEEDBACK packet, flag cleared. -/
def feedbackAxis (i : Fin 6) (s : State) : State :=
  let s1 := s.modifyAxis i fun a => { a with fb := a.snapshot (s.cfg.axisId.get i) (s.cfg.direction.get i) }
  (sendFeedback i s1).modifyAxis i fun a => { a with newTelemetry := false }

/-- Axis `i`'s part of a TICK, in the order of R380: calibration, PD, feedback. -/
def tickAxis (i : Fin 6) (s : State) : Except Fault State :=
  match (s.axis i).calibrate s.cfg (s.cfg.direction.get i) with
  | none => .error (.illegalStage i)
  | some a =>
    let s1 := s.modifyAxis i fun _ => a.pdIssue s.cfg
    .ok (if (s1.axis i).newTelemetry then feedbackAxis i s1 else s1)

/-- The axes' parts of a TICK, one after the other. -/
def tickAxes (is : List (Fin 6)) (s : State) : Except Fault State :=
  match is with
  | [] => .ok s
  | i :: rest =>
    match tickAxis i s with
    | .error e => .error e
    | .ok s1 => tickAxes rest s1

/-- `playback()` (R381): one row per tick, wrapping. -/
def playback (s : State) : Except Fault State :=
  if s.playing ∧ 0 < s.arrayLength.toNat then
    if s.trajIndex.toNat < s.cfg.trajRows then
      .ok { applyRow (trajRow s.traj s.trajIndex.toNat) s with
        trajIndex := u32 ((s.trajIndex.toNat + 1) % s.arrayLength.toNat) }
    else .error .rowOutsideBuffer
  else .ok s

end Sys2Proof.Machine
end

