-- ==== Sys2Proof/Machine/HostMessages.lean ====
section
/-! DEFINITION. The meanings of the seventeen host messages, the dispatcher's actions (45_dispatcher.md
R401-R416). Each is one definition over the shared operations. -/

namespace Sys2Proof.Machine

/-- The outcome type of a meaning. -/
abbrev Result := Host.Outcome State Fault Refusal

/-- `S.playing <- false` and idle gains on every axis, what the "leave" messages share (R405, R406, R409, R410,
R412). -/
def stopPlaying (s : State) : State := { s.mapAxes (Axis.idle s.cfg) with playing := false }

/-- HEARTBEAT (R401). -/
def execHeartbeat (h : Header) (_payload : List Byte) (s : State) : Result :=
  .next (sendAck h s.cfg.msg.heartbeat s)

/-- What ENABLE does to one axis (R402). -/
def Axis.enable (c : Config) (a : Axis) : Axis :=
  let a1 := a.txqPush c (encNone c.op.startMotor)
  if a1.calibrated then a1 else { a1 with doCalibration := true, stage := 255 }

/-- ENABLE (R402). -/
def execEnable (h : Header) (_payload : List Byte) (s : State) : Result :=
  .next ((sendAck h s.cfg.msg.enable s).mapAxes (Axis.enable s.cfg))

/-- PLAY (R403). -/
def execPlay (h : Header) (_payload : List Byte) (s : State) : Result :=
  .next { (sendAck h s.cfg.msg.play s).mapAxes (Axis.engage s.cfg) with playing := true }

/-- PAUSE (R404). -/
def execPause (h : Header) (_payload : List Byte) (s : State) : Result :=
  .next { sendAck h s.cfg.msg.pause s with playing := false }

/-- STOP (R405). -/
def execStop (h : Header) (_payload : List Byte) (s : State) : Result :=
  .next { stopPlaying (sendAck h s.cfg.msg.stop s) with trajIndex := 0 }

/-- What DISABLE does to one axis (R406). -/
def Axis.disable (c : Config) (a : Axis) : Axis :=
  { (a.idle c).txqPush c (encNone c.op.stopMotor) with doCalibration := false }

/-- DISABLE (R406). -/
def execDisable (h : Header) (_payload : List Byte) (s : State) : Result :=
  .next { (sendAck h s.cfg.msg.disable s).mapAxes (Axis.disable s.cfg) with playing := false }

/-- UPLOAD (R407): more than TRAJ_ROWS rows are answered with NAK and nothing is committed. -/
def execUpload (h : Header) (rows : List Row) (s : State) : Result :=
  if s.cfg.trajRows < rows.length then .next (sendNak h s.cfg.msg.upload (raise .capacityError s))
  else
    .next (sendAck h s.cfg.msg.upload
      { s with
        traj := Memory.writeBytes s.traj 0 (rowsToBytes rows)
        arrayLength := u32 rows.length
        trajIndex := 0 })

/-- ACK received: no action and no reply (R408). -/
def execAck (_h : Header) (_answeredSeq : U32) (_answeredId : Byte) (s : State) : Result := .next s

/-- NAK received: no action and no reply (R408). -/
def execNak (_h : Header) (_answeredSeq : U32) (_answeredId : Byte) (s : State) : Result := .next s

/-- RESET, the message: "identical in effect to STOP" (R409, R473). -/
def execReset (h : Header) (_payload : List Byte) (s : State) : Result :=
  .next { stopPlaying (sendAck h s.cfg.msg.reset s) with trajIndex := 0 }

/-- QUIT (R410). -/
def execQuit (h : Header) (_payload : List Byte) (s : State) : Result :=
  .next (stopPlaying (sendAck h s.cfg.msg.quit s))

/-- CONNECT (R411). -/
def execConnect (h : Header) (_payload : List Byte) (s : State) : Result :=
  .next (sendAck h s.cfg.msg.connect s)

/-- DISCONNECT (R412). -/
def execDisconnect (h : Header) (_payload : List Byte) (s : State) : Result :=
  .next (stopPlaying (sendAck h s.cfg.msg.disconnect s))

/-- MOVE (R413): obeyed only when not playing, else answered with NAK. -/
def execMove (h : Header) (row : Row) (s : State) : Result :=
  if s.playing then .next (sendNak h s.cfg.msg.move (raise .moveRejected s))
  else .next (sendAck h s.cfg.msg.move (applyRow row s))

/-- FEEDBACK received: no action and no reply (R414). -/
def execFeedback (_h : Header) (_fb : Feedback) (s : State) : Result := .next s

/-- INFO received: no action and no reply (R415). -/
def execInfo (_h : Header) (_payload : List Byte) (s : State) : Result := .next s

/-- UNKNOWN and every unlisted id (R416): counted, no reply. -/
def execUnknown (_h : Header) (_msgId : Byte) (_payload : List Byte) (s : State) : Result :=
  .next (raise .unknownMessage s)

end Sys2Proof.Machine
end

