-- ==== Sys2Proof/Machine/MotorReplies.lean ====
section
/-! DEFINITION. The meanings of the sixteen motor frames: what CAN_RX does with a reply of each kind
(44_axis_controller.md R375, R376; 43_motor_codec.md R300-R315). -/

namespace Sys2Proof.Machine

/-- The raw record of a reply: frame, timestamp, flag (R375). -/
def Axis.recordReply (now : U32) (data : Frame) (a : Axis) : Axis :=
  { a with rxFrame := data, rxTs := now, newTelemetry := true }

/-- A frame with an opcode outside the sixteen kinds: recorded raw only (R176, R375). -/
def recordOnly (id : CanId) (data : Frame) (s : State) : State :=
  match axisOfCanId s.cfg id with
  | none => raise .canUnknownId s
  | some i => s.modifyAxis i (Axis.recordReply s.tickCount data)

/-- A reply of a known kind (R375, R450): identifier first, then the raw record, then the result code; `act` is
what a successful reply does to the axis (R376). -/
def handleReply (id : CanId) (data : Frame) (act : Axis → Axis) (s : State) : State :=
  match axisOfCanId s.cfg id with
  | none => raise .canUnknownId s
  | some i =>
    let s1 := s.modifyAxis i (Axis.recordReply s.tickCount data)
    if data.b1 = s.cfg.resultSuccess then s1.modifyAxis i act else raise (.motorError i) s1

/-- A successful start: armed, and an immediate zero-velocity command (R376). -/
def Axis.start (c : Config) (a : Axis) : Axis :=
  { a with armed := true }.txqPush c (encF32Dur c.op.speedCtrl F32.posZero c.pdDuration)

/-- A successful stop: disarmed (R376). -/
def Axis.disarm (a : Axis) : Axis := { a with armed := false }

/-- A successful control reply: decoded and stored (R376, R317-R319). -/
def Axis.telemetry (c : Config) (r : ControlReply) (a : Axis) : Axis :=
  { a with
    temperature := r.temp
    theta := thetaOfCode c r.pc
    omega := omegaOfCode c r.vc
    tau := tauOfCode c r.tc }

/-- OP_RESET_CONFIG (R300). -/
def execOpResetConfig (id : CanId) (r : RawReply) (s : State) : Result :=
  .next (handleReply id (encRawReply s.cfg.op.resetConfig r) (fun a => a) s)

/-- OP_REFRESH_CONFIG (R301). -/
def execOpRefreshConfig (id : CanId) (r : RawReply) (s : State) : Result :=
  .next (handleReply id (encRawReply s.cfg.op.refreshConfig r) (fun a => a) s)

/-- OP_MODIFY_CONFIG (R302). -/
def execOpModifyConfig (id : CanId) (r : RawReply) (s : State) : Result :=
  .next (handleReply id (encRawReply s.cfg.op.modifyConfig r) (fun a => a) s)

/-- OP_RETRIEVE_CONFIG (R303). -/
def execOpRetrieveConfig (id : CanId) (r : RawReply) (s : State) : Result :=
  .next (handleReply id (encRawReply s.cfg.op.retrieveConfig r) (fun a => a) s)

/-- OP_START_MOTOR (R304). -/
def execOpStartMotor (id : CanId) (r : RawReply) (s : State) : Result :=
  .next (handleReply id (encRawReply s.cfg.op.startMotor r) (Axis.start s.cfg) s)

/-- OP_STOP_MOTOR (R305). -/
def execOpStopMotor (id : CanId) (r : RawReply) (s : State) : Result :=
  .next (handleReply id (encRawReply s.cfg.op.stopMotor r) Axis.disarm s)

/-- OP_TORQUE_CTRL (R306). -/
def execOpTorqueCtrl (id : CanId) (r : ControlReply) (s : State) : Result :=
  .next (handleReply id (encControl s.cfg.op.torqueCtrl r) (Axis.telemetry s.cfg r) s)

/-- OP_SPEED_CTRL (R307). -/
def execOpSpeedCtrl (id : CanId) (r : ControlReply) (s : State) : Result :=
  .next (handleReply id (encControl s.cfg.op.speedCtrl r) (Axis.telemetry s.cfg r) s)

/-- OP_POSITION_CTRL (R308). -/
def execOpPositionCtrl (id : CanId) (r : ControlReply) (s : State) : Result :=
  .next (handleReply id (encControl s.cfg.op.positionCtrl r) (Axis.telemetry s.cfg r) s)

/-- OP_STOP_CTRL (R309). -/
def execOpStopCtrl (id : CanId) (r : RawReply) (s : State) : Result :=
  .next (handleReply id (encRawReply s.cfg.op.stopCtrl r) (fun a => a) s)

/-- OP_MODIFY_PARAM (R310). -/
def execOpModifyParam (id : CanId) (r : RawReply) (s : State) : Result :=
  .next (handleReply id (encRawReply s.cfg.op.modifyParam r) (fun a => a) s)

/-- OP_RETRIEVE_PARAM (R311). -/
def execOpRetrieveParam (id : CanId) (r : RawReply) (s : State) : Result :=
  .next (handleReply id (encRawReply s.cfg.op.retrieveParam r) (fun a => a) s)

/-- OP_GET_VERSION (R312). -/
def execOpGetVersion (id : CanId) (r : RawReply) (s : State) : Result :=
  .next (handleReply id (encRawReply s.cfg.op.getVersion r) (fun a => a) s)

/-- OP_GET_FAULT (R313). -/
def execOpGetFault (id : CanId) (r : RawReply) (s : State) : Result :=
  .next (handleReply id (encRawReply s.cfg.op.getFault r) (fun a => a) s)

/-- OP_ACK_FAULT (R314). -/
def execOpAckFault (id : CanId) (r : RawReply) (s : State) : Result :=
  .next (handleReply id (encRawReply s.cfg.op.ackFault r) (fun a => a) s)

/-- OP_RETRIEVE_INDICATOR (R315). -/
def execOpRetrieveIndicator (id : CanId) (r : RawReply) (s : State) : Result :=
  .next (handleReply id (encRawReply s.cfg.op.retrieveIndicator r) (fun a => a) s)

end Sys2Proof.Machine
end

