-- ==== Sys2Proof/Machine/Dispatch.lean ====
section
/-! DEFINITION. The one meaning of each instruction, arm by arm. -/

namespace Sys2Proof.Machine

/-- The effect of an instruction: a host message that the PacketComplete step dispatches, or a motor frame that
CAN_RX delivers. -/
def exec (i : Instr) (s : State) : Host.Outcome State Fault Refusal :=
  match i with
  | .heartbeat h p => Sys2Proof.Machine.execHeartbeat h p s
  | .enable h p => Sys2Proof.Machine.execEnable h p s
  | .play h p => Sys2Proof.Machine.execPlay h p s
  | .pause h p => Sys2Proof.Machine.execPause h p s
  | .stop h p => Sys2Proof.Machine.execStop h p s
  | .disable h p => Sys2Proof.Machine.execDisable h p s
  | .upload h rows => Sys2Proof.Machine.execUpload h rows s
  | .ack h q m => Sys2Proof.Machine.execAck h q m s
  | .nak h q m => Sys2Proof.Machine.execNak h q m s
  | .reset h p => Sys2Proof.Machine.execReset h p s
  | .quit h p => Sys2Proof.Machine.execQuit h p s
  | .connect h p => Sys2Proof.Machine.execConnect h p s
  | .disconnect h p => Sys2Proof.Machine.execDisconnect h p s
  | .move h row => Sys2Proof.Machine.execMove h row s
  | .feedback h fb => Sys2Proof.Machine.execFeedback h fb s
  | .info h p => Sys2Proof.Machine.execInfo h p s
  | .unknown h m p => Sys2Proof.Machine.execUnknown h m p s
  | .opResetConfig id r => Sys2Proof.Machine.execOpResetConfig id r s
  | .opRefreshConfig id r => Sys2Proof.Machine.execOpRefreshConfig id r s
  | .opModifyConfig id r => Sys2Proof.Machine.execOpModifyConfig id r s
  | .opRetrieveConfig id r => Sys2Proof.Machine.execOpRetrieveConfig id r s
  | .opStartMotor id r => Sys2Proof.Machine.execOpStartMotor id r s
  | .opStopMotor id r => Sys2Proof.Machine.execOpStopMotor id r s
  | .opTorqueCtrl id r => Sys2Proof.Machine.execOpTorqueCtrl id r s
  | .opSpeedCtrl id r => Sys2Proof.Machine.execOpSpeedCtrl id r s
  | .opPositionCtrl id r => Sys2Proof.Machine.execOpPositionCtrl id r s
  | .opStopCtrl id r => Sys2Proof.Machine.execOpStopCtrl id r s
  | .opModifyParam id r => Sys2Proof.Machine.execOpModifyParam id r s
  | .opRetrieveParam id r => Sys2Proof.Machine.execOpRetrieveParam id r s
  | .opGetVersion id r => Sys2Proof.Machine.execOpGetVersion id r s
  | .opGetFault id r => Sys2Proof.Machine.execOpGetFault id r s
  | .opAckFault id r => Sys2Proof.Machine.execOpAckFault id r s
  | .opRetrieveIndicator id r => Sys2Proof.Machine.execOpRetrieveIndicator id r s

end Sys2Proof.Machine
end

