-- ==== Sys2Proof/Machine/Parser.lean ====
section
/-! DEFINITION. The packet parser's states up to the verdict (41_parser.md R239-R254). The PacketComplete step,
which dispatches, is in Machine/Events.lean. -/

namespace Sys2Proof.Machine

/-- Begin a parse cycle (R240). -/
def beginCycle (s : State) : State :=
  { s with
    info := PacketInfo.empty
    crc := crc32Update crc32Init s.cfg.startMarker
    payloadRead := 0
    pstate := .awaitHeader }

/-- AwaitStart (R239): scan for a start marker; the bytes before it are discarded and counted (R442). -/
def awaitStartStep (s : State) : State :=
  let scan := Ring.consumeUntil s.cfg.rxCap s.rx s.cfg.startMarker
  let s1 := raise (.discard scan.2.1) { s with rx := scan.2.2 }
  if scan.1 then beginCycle s1 else s1

/-- The header's fields recorded in `S.info`, and the CRC over it (R244). -/
def readHeader (h : List Byte) (s : State) : State :=
  { s with
    crc := crc32Fold s.crc h
    info := { s.info with
      length := wordAt h 0
      sequence := wordAt h 4
      fromId := h.getD 8 0
      toId := h.getD 9 0
      msgId := h.getD 10 0 } }

/-- The header checks (R245, R246, R247, R450): length, then size; on a violation, a silent resync. -/
def checkHeader (s : State) : State :=
  let len := s.info.length.toNat
  if len < s.cfg.overhead ∨ s.cfg.maxPacketSize < len then
    { raise .lengthError s with pstate := .awaitStart }
  else
    let s1 := { s with info := { s.info with payloadSize := u32 (len - s.cfg.overhead) } }
    if !sizeOk s.cfg s.info.msgId (len - s.cfg.overhead) then
      { raise .sizeError s1 with pstate := .awaitStart }
    else { s1 with pstate := .awaitPayloadCrc }

/-- AwaitHeader (R244): the whole header in one shot, or wait. -/
def awaitHeaderStep (s : State) : State :=
  if s.rx.count.toNat < headerSize then s
  else
    let r := Ring.readBytes s.cfg.rxCap s.rx headerSize
    checkHeader (readHeader r.1 { s with rx := r.2 })

/-- How many payload bytes one step drains (R250). -/
def drainSize (s : State) : Nat :=
  min (min s.rx.count.toNat (s.info.payloadSize.toNat - s.payloadRead.toNat)) s.cfg.scratchWindow

/-- The drain (R250): at most a window of payload bytes into PB, folded into the CRC. -/
def drainPayload (s : State) : State :=
  let r := Ring.readBytes s.cfg.rxCap s.rx (drainSize s)
  { s with
    rx := r.2
    crc := crc32Fold s.crc r.1
    pb := Memory.writeBytes s.pb s.payloadRead.toNat r.1
    payloadRead := s.payloadRead + u32 (drainSize s) }

/-- The verdict on the footer bytes `f` (R252, R253, R450), and the packet complete (R254). -/
def judge (f : List Byte) (s : State) : State :=
  let crcOk := footerCrcOk s.crc f
  let endOk := footerEndOk s.cfg f
  let s1 := { s with info := { s.info with isValid := crcOk && endOk }, pstate := .packetComplete }
  if crcOk && endOk then
    { s1 with counters := { s1.counters with rxOkCount := s1.counters.rxOkCount + 1 } }
  else if !crcOk then raise (.crcError (wordAt f 0) (crc32Final s.crc)) s1
  else raise .endMarkerError s1

/-- The footer part of an AwaitPayloadCrc step (R251): wait until payload and footer are there. -/
def footerStep (s : State) : State :=
  if s.payloadRead.toNat < s.info.payloadSize.toNat ∨ s.rx.count.toNat < s.cfg.footerSize then s
  else
    let r := Ring.readBytes s.cfg.rxCap s.rx s.cfg.footerSize
    judge r.1 { s with rx := r.2 }

/-- AwaitPayloadCrc (R250-R254). PB has MAX_PAYLOAD bytes (R34, R100): a write beyond them faults. -/
def awaitPayloadStep (s : State) : Except Fault State :=
  if s.cfg.maxPayload < s.payloadRead.toNat + drainSize s then .error .payloadOutsideBuffer
  else .ok (footerStep (drainPayload s))

end Sys2Proof.Machine
end

