-- ==== Sys2Proof/Machine/Events.lean ====
section
/-! DEFINITION. The events of the block (20_memory.md R120, R121) and which of them occurs next. -/

namespace Sys2Proof.Machine

/-- A result with `f` applied to its next state. -/
def mapNext (f : State → State) (r : Result) : Result :=
  match r with
  | .next t => .next (f t)
  | .fault e => .fault e
  | .refused e => .refused e

/-- A next state or a fault, as an outcome. -/
def ofExcept (r : Except Fault State) : Result :=
  match r with
  | .ok t => .next t
  | .error e => .fault e

/-- RX_POLL (40_ringbuffer.md R207, R208): what fits is taken, the rest stays offered. -/
def rxPoll (s : State) : State :=
  let k := min s.rxIn.length (Ring.free s.cfg.rxCap s.rx)
  { s with rx := (Ring.writeBytes s.cfg.rxCap s.rx (s.rxIn.take k)).1, rxIn := s.rxIn.drop k }

/-- The header operand that the dispatcher takes from `S.info` (R400). -/
def infoHeader (info : PacketInfo) : Header := ⟨info.sequence, info.fromId, info.toId⟩

/-- The payload operand, `PB[0..payloadSize)` (R256). -/
def payloadBytes (s : State) : List Byte := Memory.readBytes s.pb 0 s.info.payloadSize.toNat

/-- The instruction that a complete packet holds: its descriptor and staged payload, decoded (R256, R400). -/
def fetchMessage (s : State) : Except DecodeError Instr :=
  decodeMessage s.cfg (infoHeader s.info) s.info.msgId (payloadBytes s)

/-- PacketComplete (R256): a valid packet is dispatched; in every case the parser returns to AwaitStart. -/
def packetCompleteStep (s : State) : Result :=
  if s.info.isValid then
    match fetchMessage s with
    | .ok i => mapNext (fun t => { t with pstate := .awaitStart }) (exec i s)
    | .error _ => .fault .unadmittedPacket
  else .next { s with pstate := .awaitStart }

/-- PARSE_STEP (R238): the work of exactly one parser state. -/
def parseStep (s : State) : Result :=
  match s.pstate with
  | .awaitStart => .next (awaitStartStep s)
  | .awaitHeader => .next (awaitHeaderStep s)
  | .awaitPayloadCrc => ofExcept (awaitPayloadStep s)
  | .packetComplete => packetCompleteStep s

/-- The oldest queued frame of an axis sent and recorded (R378). -/
def Axis.sent (now : U32) (f : Frame) (rest : List Frame) (a : Axis) : Axis :=
  { a with txq := rest, txFrame := f, txTs := now }

/-- Axis `i`'s part of CAN_DRAIN (R378): at most one frame leaves. -/
def drainAxis (s : State) (i : Fin 6) : State :=
  match (s.axis i).txq with
  | [] => s
  | f :: rest =>
    { s.modifyAxis i (Axis.sent s.tickCount f rest) with
      canOut := s.canOut ++ [(s.cfg.canId.get i, f)] }

/-- CAN_DRAIN (R378). -/
def canDrain (s : State) : State := axisOrder.foldl drainAxis s

/-- TX_DRAIN(k) (R209). -/
def txDrain (k : Nat) (s : State) : State :=
  let r := Ring.readBytes s.cfg.txCap s.tx k
  { s with tx := r.2, txOut := s.txOut ++ r.1 }

/-- The first part of a TICK: the tick counted, every switch debounced (R380). -/
def tickStart (limit : Six Bool) (s : State) : State :=
  { s with tickCount := s.tickCount + 1 }.mapAxesIdx fun i a => a.debounce s.cfg (limit.get i)

/-- TICK (R380). -/
def tick (limit : Six Bool) (s : State) : Except Fault State :=
  match playback (tickStart limit s) with
  | .error e => .error e
  | .ok s1 => tickAxes axisOrder s1

/-- CAN_RX (R375): a frame of one of the sixteen kinds is an instruction; any other is recorded raw. -/
def canRx (id : CanId) (data : Frame) (s : State) : Result :=
  match decodeFrame s.cfg id data with
  | .ok i => exec i s
  | .error _ => .next (recordOnly id data s)

/-- RESET (70_reset_and_hazards.md R470): every state element at its reset value; the parameters and the ports
are not state. Bytes still offered on RX_IN stay offered. -/
def resetBlock (s : State) : State :=
  { State.powerOn s.cfg with pending := s.pending, rxIn := s.rxIn, txOut := s.txOut, canOut := s.canOut }

/-- The next main-loop event in the cyclic order RX_POLL, PARSE_STEP, CAN_DRAIN (R121). -/
def mainLoopStep (s : State) : Result :=
  match s.slot with
  | .rxPoll => .next { rxPoll s with slot := .parseStep }
  | .parseStep => mapNext (fun t => { t with slot := .canDrain }) (parseStep s)
  | .canDrain => .next { canDrain s with slot := .rxPoll }

/-- One entry of the schedule. -/
def runEvent (e : Event) (s : State) : Result :=
  match e with
  | .mainLoop => mainLoopStep s
  | .offer bytes => .next { s with rxIn := s.rxIn ++ bytes }
  | .tick limit => ofExcept (tick limit s)
  | .canRx id data => canRx id data s
  | .txDrain k => .next (txDrain k s)
  | .reset => .next (resetBlock s)

/-- What occurs next: the head of the schedule, or the next main-loop event where the schedule has no further
entry. An instance whose parameters break R9 is refused (R10). -/
def nextEvent (s : State) : Result :=
  if s.cfg.valid then
    match s.pending with
    | [] => mainLoopStep s
    | e :: rest => runEvent e { s with pending := rest }
  else .refused .parametersRefused

/-- `s` with the bytes of a packet standing where the PacketComplete step takes its instruction from: the
descriptor, valid, and the payload in PB, with PARSE_STEP the next event. -/
def placePacket (bs : List Byte) (s : State) : State :=
  let len := wordAt bs 1
  let p := len.toNat - s.cfg.overhead
  { s with
    pending := .mainLoop :: s.pending
    slot := .parseStep
    pstate := .packetComplete
    payloadRead := u32 p
    pb := Memory.writeBytes s.pb 0 ((bs.drop 12).take p)
    info := {
      length := len
      sequence := wordAt bs 5
      payloadSize := u32 p
      fromId := bs.getD 9 0
      toId := bs.getD 10 0
      msgId := bs.getD 11 0
      isValid := true } }

/-- `s` with the wire placed so that the next step runs its instruction: a frame is the next CAN_RX, a packet
stands complete in the parser. -/
def placeWire (w : Wire) (s : State) : State :=
  match w with
  | .packet bs => placePacket bs s
  | .frame id f => { s with pending := .canRx id f :: s.pending }

end Sys2Proof.Machine
end

