-- ==== Sys2Proof/Machine/Step.lean ====
section
/-! DEFINITION. One step of the machine, and the placing of a word of the opcode table where the next step runs
it. -/

namespace Sys2Proof.Machine

/-- One step: exactly one event (R120). -/
def step (s : State) : Host.Outcome State Fault Refusal := nextEvent s

/-- `s` with the instruction of a word of spec/opcode_table.json placed where the next step runs it
(notes/assumptions/7.md). -/
def State.withFetchWord (s : State) (nbits w : Nat) : State := placeWire (tableWire s.cfg nbits w) s

end Sys2Proof.Machine
end

