-- ==== Sys2Proof/Safety.lean ====
section
/-! DEFINITION. What counts as a safe state and a safe run, and the words in which claims about the block are
made: the invariant of the reachable states, what a reply leaves, and runs of the parser and of the ring buffers. -/

namespace Sys2Proof.Machine

/-- The invariants of R32 and R200, with the storage in canonical form and inside the buffer. -/
def Ring.wf (n : Nat) (r : Ring) : Bool :=
  decide (r.count.toNat ≤ n) && decide (r.head.toNat < n) && decide (r.tail.toNat < n)
    && decide (r.head.toNat = (r.tail.toNat + r.count.toNat) % n)
    && Memory.wf r.mem && Memory.within n r.mem

/-- "legal values {0,1,2,3,4,5,6,255}" (R44). -/
def legalStage (stage : Byte) : Bool := decide (stage.toNat ≤ 6) || stage == 255

/-- What R44, R45, R48 and R49 say of every axis record: a legal stage, `debCount < DEBOUNCE_N`, one of the two gain
sets, at most CAN_TXQ_DEPTH queued frames. -/
def Axis.wf (c : Config) (a : Axis) : Bool :=
  legalStage a.stage
    && decide (a.debCount.toNat < c.debounceN)
    && ((a.p == c.pIdle && a.d == c.dIdle && a.vLim == c.vLimIdle)
      || (a.p == c.pEngaged && a.d == c.dEngaged && a.vLim == c.vLimEngaged))
    && decide (a.txq.length ≤ c.canTxqDepth)

/-- The invariant of every reachable state. -/
structure State.Inv (s : State) : Prop where
  /-- the parameters meet R9 -/
  valid : s.cfg.valid = true
  /-- R32 -/
  rxRing : Ring.wf s.cfg.rxCap s.rx = true
  /-- R38 -/
  txRing : Ring.wf s.cfg.txCap s.tx = true
  /-- PB is canonical and inside MAX_PAYLOAD bytes (R34) -/
  payloadBuffer : (Memory.wf s.pb && Memory.within s.cfg.maxPayload s.pb) = true
  /-- the trajectory buffer is canonical and inside TRAJ_ROWS rows (R37, R100) -/
  trajBuffer : (Memory.wf s.traj && Memory.within (rowBytes * s.cfg.trajRows) s.traj) = true
  /-- `0 ≤ payloadRead ≤ info.payloadSize` (R34) -/
  payloadRead : s.payloadRead.toNat ≤ s.info.payloadSize.toNat
  /-- the payload fits PB (R34, R245) -/
  payloadSize : s.info.payloadSize.toNat ≤ s.cfg.maxPayload
  /-- a cycle just begun has an empty descriptor (R240) -/
  header : s.pstate = .awaitHeader → s.info = PacketInfo.empty
  /-- past the header checks, the length and size are admitted (R245, R246) -/
  admitted : s.pstate = .awaitPayloadCrc ∨ s.pstate = .packetComplete →
    s.info.length.toNat = s.info.payloadSize.toNat + s.cfg.overhead
      ∧ sizeOk s.cfg s.info.msgId s.info.payloadSize.toNat = true
  /-- a packet in assembly has no verdict yet (R35, R252) -/
  unjudged : s.pstate = .awaitPayloadCrc → s.info.isValid = false
  /-- a complete packet's payload has been read (R251) -/
  complete : s.pstate = .packetComplete → s.payloadRead = s.info.payloadSize
  /-- `arrayLength ≤ TRAJ_ROWS` (R37) -/
  arrayLength : s.arrayLength.toNat ≤ s.cfg.trajRows
  /-- `trajIndex < arrayLength`, and 0 when there are no rows (R37) -/
  trajIndex : if s.arrayLength = 0 then s.trajIndex = 0 else s.trajIndex.toNat < s.arrayLength.toNat
  /-- every axis record -/
  axes : ∀ i : Fin 6, Axis.wf s.cfg (s.axis i) = true

/-- `bytes` appended to a ring of capacity `n`, as far as they fit (R204): the free space takes the first of them at
`head` on, every other byte of the buffer reads as before, and the indexes move by what was stored. -/
def Appended (n : Nat) (before after : Ring) (bytes : List Byte) : Prop :=
  let k := min bytes.length (n - before.count.toNat)
  after.tail = before.tail
    ∧ after.count.toNat = before.count.toNat + k
    ∧ after.head.toNat = (before.head.toNat + k) % n
    ∧ (∀ j, j < k → Memory.read after.mem ((before.head.toNat + j) % n) = bytes.getD j 0)
    ∧ (∀ a, (∀ j, j < k → a ≠ (before.head.toNat + j) % n) → Memory.read after.mem a = Memory.read before.mem a)

/-- One packet sent between `s` and `t` (R271): the whole layout of R150 with the next sequence number, appended to
RB.TX; `txSeq` advanced; a partial write counted. -/
def Sent (s t : State) (msgId toId : Byte) (payload : List Byte) : Prop :=
  Appended s.cfg.txCap s.tx t.tx (packetBytes s.cfg ⟨s.txSeq, s.cfg.nodeId, toId⟩ msgId payload)
    ∧ t.txSeq = s.txSeq + 1
    ∧ t.counters.txTruncCount
      = (if s.cfg.txCap - s.tx.count.toNat < payload.length + s.cfg.overhead
         then s.counters.txTruncCount + 1 else s.counters.txTruncCount)

/-- `s` with the transmit side of `t`: RB.TX, `txSeq` and the truncation counter. -/
def withTransmit (s t : State) : State :=
  { s with
    tx := t.tx
    txSeq := t.txSeq
    counters := { s.counters with txTruncCount := t.counters.txTruncCount } }

/-- `s` with axis `i`'s record replaced by `a`, and nothing else different in `t`. -/
def OnlyAxisChanged (s t : State) (i : Fin 6) (a : Axis) : Prop :=
  t = { s with axes := t.axes } ∧ t.axis i = a ∧ ∀ j, j ≠ i → t.axis j = s.axis j

/-- The AwaitPayloadCrc steps that a payload of `p` buffered bytes takes, `max(1, ⌈p / SCRATCH_WINDOW⌉)` (R257). -/
def payloadSteps (c : Config) (p : Nat) : Nat := max 1 ((p + c.scratchWindow - 1) / c.scratchWindow)

/-- A packet that passes the header checks stands whole at the head of RB.RX, with the parser at AwaitStart: start
marker, eleven header bytes `hb`, payload `pl`, footer bytes `ft` (R150); `rest` follows it. Nothing is said of the
footer's content, so the packet may be corrupted. -/
structure Buffered (s : State) (hb pl ft rest : List Byte) : Prop where
  atStart : s.pstate = .awaitStart
  headerLength : hb.length = 11
  footerLength : ft.length = s.cfg.footerSize
  declared : (wordAt hb 0).toNat = pl.length + s.cfg.overhead
  fits : pl.length + s.cfg.overhead ≤ s.cfg.maxPacketSize
  admitted : sizeOk s.cfg (hb.getD 10 0) pl.length = true
  bytes : Ring.content s.cfg.rxCap s.rx = [s.cfg.startMarker] ++ hb ++ pl ++ ft ++ rest

/-- The next event is a PARSE_STEP of the main loop (R121) that dispatches a valid packet with message id `m` (R256). -/
structure Dispatches (s : State) (m : Byte) : Prop where
  scheduled : s.pending = [] ∨ ∃ later, s.pending = .mainLoop :: later
  turn : s.slot = .parseStep
  complete : s.pstate = .packetComplete
  valid : s.info.isValid = true
  kind : s.info.msgId = m

/-- `n` PARSE_STEP events in a row, without any other event between them. -/
def parseRun (n : Nat) (s : State) : Result :=
  match n with
  | 0 => .next s
  | n + 1 =>
    match parseStep s with
    | .next t => parseRun n t
    | .fault e => .fault e
    | .refused e => .refused e

/-- `n` steps, stopping at the first fault or refusal. -/
def run (n : Nat) (s : State) : Result :=
  match n with
  | 0 => .next s
  | n + 1 =>
    match step s with
    | .next t => run n t
    | .fault e => .fault e
    | .refused e => .refused e

/-- The ring-buffer operations of R211. -/
inductive RingOp where
  | push (b : Byte)
  | pop
  | readBytes (want : Nat)
  | writeBytes (src : List Byte)
  deriving DecidableEq, Repr

/-- One operation: the buffer after, the bytes it accepted, the bytes it returned. -/
def RingOp.apply (n : Nat) (r : Ring) (o : RingOp) : Ring × List Byte × List Byte :=
  match o with
  | .push b => let w := Ring.push n r b; (w.1, if w.2 then [b] else [], [])
  | .pop =>
    match Ring.pop n r with
    | none => (r, [], [])
    | some (b, r') => (r', [], [b])
  | .readBytes want => let w := Ring.readBytes n r want; (w.2, [], w.1)
  | .writeBytes src => let w := Ring.writeBytes n r src; (w.1, src.take w.2, [])

/-- A sequence of operations: the buffer after, all bytes accepted, all bytes returned. -/
def RingOp.applyAll (n : Nat) (r : Ring) (os : List RingOp) : Ring × List Byte × List Byte :=
  match os with
  | [] => (r, [], [])
  | o :: rest =>
    let a := RingOp.apply n r o
    let b := RingOp.applyAll n a.1 rest
    (b.1, a.2.1 ++ b.2.1, a.2.2 ++ b.2.2)

end Sys2Proof.Machine
end

