-- ==== Sys2Proof/Certificates/Slice0/Obligations.lean ====
section
/-! DEFINITION. The statements about the block, for the provers. Each follows the rules of spec/ its docstring names. -/

section

open Sys2Proof Sys2Proof.Machine

/-! Host messages (45_dispatcher.md). `Sent s t m to pl` is one packet sent, truncation included; `withTransmit s t` is
`s` with the transmit side of `t`. -/

/-- R401, R411: HEARTBEAT and CONNECT are acknowledged, whatever their payload, and do nothing else. -/
def Obligations.HeartbeatAndConnectAcknowledge : Prop :=
  ∀ (s : State) (h : Header) (p : List Byte), s.Inv →
    (∃ t, exec (.heartbeat h p) s = .next t
      ∧ Sent s t s.cfg.msg.ack h.fromId (answerToBytes h.sequence s.cfg.msg.heartbeat)
      ∧ t = withTransmit s t)
    ∧ (∃ t, exec (.connect h p) s = .next t
      ∧ Sent s t s.cfg.msg.ack h.fromId (answerToBytes h.sequence s.cfg.msg.connect)
      ∧ t = withTransmit s t)

/-- R402: ENABLE is acknowledged; every axis queues START_MOTOR (or counts the drop when its queue is full, R377), and
every axis not calibrated is marked for calibration at stage 255. -/
def Obligations.EnableStartsAndRequestsCalibration : Prop :=
  ∀ (s : State) (h : Header) (p : List Byte), s.Inv →
    ∃ t, exec (.enable h p) s = .next t
      ∧ Sent s t s.cfg.msg.ack h.fromId (answerToBytes h.sequence s.cfg.msg.enable)
      ∧ t = { withTransmit s t with axes := t.axes }
      ∧ ∀ i, t.axis i =
          let a := s.axis i
          { a with
            txq := if a.txq.length < s.cfg.canTxqDepth
              then a.txq ++ [⟨s.cfg.op.startMotor, 0, 0, 0, 0, 0, 0, 0⟩] else a.txq
            canTxDropCount := if a.txq.length < s.cfg.canTxqDepth then a.canTxDropCount
              else a.canTxDropCount + 1
            doCalibration := if a.calibrated then a.doCalibration else true
            stage := if a.calibrated then a.stage else 255 }

/-- R403: PLAY is acknowledged, sets `playing`, and selects the engaged gains on every axis. -/
def Obligations.PlayEngagesEveryAxis : Prop :=
  ∀ (s : State) (h : Header) (p : List Byte), s.Inv →
    ∃ t, exec (.play h p) s = .next t
      ∧ Sent s t s.cfg.msg.ack h.fromId (answerToBytes h.sequence s.cfg.msg.play)
      ∧ t = { withTransmit s t with playing := true, axes := t.axes }
      ∧ ∀ i, t.axis i = { s.axis i with p := s.cfg.pEngaged, d := s.cfg.dEngaged, vLim := s.cfg.vLimEngaged }

/-- R404: PAUSE is acknowledged and clears `playing`; gains and `trajIndex` stay. -/
def Obligations.PauseKeepsIndexAndGains : Prop :=
  ∀ (s : State) (h : Header) (p : List Byte), s.Inv →
    ∃ t, exec (.pause h p) s = .next t
      ∧ Sent s t s.cfg.msg.ack h.fromId (answerToBytes h.sequence s.cfg.msg.pause)
      ∧ t = { withTransmit s t with playing := false }

/-- R405, R409: STOP and the RESET message are acknowledged, stop playback, rewind, and select the idle gains; nothing
else changes (R473). -/
def Obligations.StopAndResetMessageRewind : Prop :=
  ∀ (s : State) (h : Header) (p : List Byte), s.Inv →
    (∃ t, exec (.stop h p) s = .next t
      ∧ Sent s t s.cfg.msg.ack h.fromId (answerToBytes h.sequence s.cfg.msg.stop)
      ∧ t = { withTransmit s t with playing := false, trajIndex := 0, axes := t.axes }
      ∧ ∀ i, t.axis i = { s.axis i with p := s.cfg.pIdle, d := s.cfg.dIdle, vLim := s.cfg.vLimIdle })
    ∧ (∃ t, exec (.reset h p) s = .next t
      ∧ Sent s t s.cfg.msg.ack h.fromId (answerToBytes h.sequence s.cfg.msg.reset)
      ∧ t = { withTransmit s t with playing := false, trajIndex := 0, axes := t.axes }
      ∧ ∀ i, t.axis i = { s.axis i with p := s.cfg.pIdle, d := s.cfg.dIdle, vLim := s.cfg.vLimIdle })

/-- R410, R412: QUIT and DISCONNECT are acknowledged, stop playback and select the idle gains; `trajIndex` stays. -/
def Obligations.QuitAndDisconnectStopPlayback : Prop :=
  ∀ (s : State) (h : Header) (p : List Byte), s.Inv →
    (∃ t, exec (.quit h p) s = .next t
      ∧ Sent s t s.cfg.msg.ack h.fromId (answerToBytes h.sequence s.cfg.msg.quit)
      ∧ t = { withTransmit s t with playing := false, axes := t.axes }
      ∧ ∀ i, t.axis i = { s.axis i with p := s.cfg.pIdle, d := s.cfg.dIdle, vLim := s.cfg.vLimIdle })
    ∧ (∃ t, exec (.disconnect h p) s = .next t
      ∧ Sent s t s.cfg.msg.ack h.fromId (answerToBytes h.sequence s.cfg.msg.disconnect)
      ∧ t = { withTransmit s t with playing := false, axes := t.axes }
      ∧ ∀ i, t.axis i = { s.axis i with p := s.cfg.pIdle, d := s.cfg.dIdle, vLim := s.cfg.vLimIdle })

/-- R406: DISABLE is acknowledged and stops playback; every axis takes the idle gains, queues STOP_MOTOR (or counts the
drop) and abandons its calibration. -/
def Obligations.DisableStopsEveryAxis : Prop :=
  ∀ (s : State) (h : Header) (p : List Byte), s.Inv →
    ∃ t, exec (.disable h p) s = .next t
      ∧ Sent s t s.cfg.msg.ack h.fromId (answerToBytes h.sequence s.cfg.msg.disable)
      ∧ t = { withTransmit s t with playing := false, axes := t.axes }
      ∧ ∀ i, t.axis i =
          let a := s.axis i
          { a with
            p := s.cfg.pIdle
            d := s.cfg.dIdle
            vLim := s.cfg.vLimIdle
            txq := if a.txq.length < s.cfg.canTxqDepth
              then a.txq ++ [⟨s.cfg.op.stopMotor, 0, 0, 0, 0, 0, 0, 0⟩] else a.txq
            canTxDropCount := if a.txq.length < s.cfg.canTxqDepth then a.canTxDropCount
              else a.canTxDropCount + 1
            doCalibration := false }

/-- R407, the accepted case: the rows are committed (every byte of the trajectory buffer beyond them reads as before),
`arrayLength` is their number (a u32, R37), `trajIndex` is 0, and ACK is sent. -/
def Obligations.UploadCommitsRows : Prop :=
  ∀ (s : State) (h : Header) (rows : List Row), s.Inv → rows.length ≤ s.cfg.trajRows → rows.length < 2 ^ 32 →
    ∃ t, exec (.upload h rows) s = .next t
      ∧ Sent s t s.cfg.msg.ack h.fromId (answerToBytes h.sequence s.cfg.msg.upload)
      ∧ t = { withTransmit s t with traj := t.traj, arrayLength := t.arrayLength, trajIndex := 0 }
      ∧ t.arrayLength.toNat = rows.length
      ∧ (∀ r (hr : r < rows.length), trajRow t.traj r = rows[r])
      ∧ ∀ a, rowBytes * rows.length ≤ a → Memory.read t.traj a = Memory.read s.traj a

/-- R451: an UPLOAD of more than TRAJ_ROWS rows is counted and answered with NAK; the trajectory stays. -/
def Obligations.UploadBeyondCapacityRejected : Prop :=
  ∀ (s : State) (h : Header) (rows : List Row), s.Inv → s.cfg.trajRows < rows.length →
    ∃ t, exec (.upload h rows) s = .next t
      ∧ Sent s t s.cfg.msg.nak h.fromId (answerToBytes h.sequence s.cfg.msg.upload)
      ∧ t = { withTransmit s t with
              counters := { (withTransmit s t).counters with
                uploadNakCount := s.counters.uploadNakCount + 1 } }

/-- R413 while not playing, with R369-R371: each component that is not a NaN, for an axis that is not calibrating, is
clamped and becomes the axis's setpoint in the motor frame; ACK is sent. -/
def Obligations.MoveSetsSetpoints : Prop :=
  ∀ (s : State) (h : Header) (row : Row), s.Inv → s.playing = false →
    ∃ t, exec (.move h row) s = .next t
      ∧ Sent s t s.cfg.msg.ack h.fromId (answerToBytes h.sequence s.cfg.msg.move)
      ∧ t = { withTransmit s t with axes := t.axes }
      ∧ ∀ i, t.axis i =
          let a := s.axis i
          let b := row.get i
          let limit := s.cfg.angleLimit
          let clamped := if F32.lt b (F32.neg limit) then F32.neg limit else if F32.lt limit b then limit else b
          let dir : F32 := if s.cfg.direction.get i = .plus then 0x3F800000 else 0xBF800000
          if (a.doCalibration = true ∧ a.calibrated = false) ∨ F32.isNaN b = true then a
          else { a with setPoint := F32.add (F32.mul clamped dir) a.offset }

/-- R452: a MOVE while playing is counted and answered with NAK; the setpoints stay. -/
def Obligations.MoveRejectedWhilePlaying : Prop :=
  ∀ (s : State) (h : Header) (row : Row), s.Inv → s.playing = true →
    ∃ t, exec (.move h row) s = .next t
      ∧ Sent s t s.cfg.msg.nak h.fromId (answerToBytes h.sequence s.cfg.msg.move)
      ∧ t = { withTransmit s t with
              counters := { (withTransmit s t).counters with moveNakCount := s.counters.moveNakCount + 1 } }

/-- R408, R414, R415: ACK, NAK, FEEDBACK and INFO received change nothing and are not answered. -/
def Obligations.IncomingReportsIgnored : Prop :=
  ∀ (s : State) (h : Header) (q : U32) (m : Byte) (fb : Feedback) (p : List Byte),
    exec (.ack h q m) s = .next s ∧ exec (.nak h q m) s = .next s
      ∧ exec (.feedback h fb) s = .next s ∧ exec (.info h p) s = .next s

/-- R416: a message of no listed kind is counted; no reply, no other state change. -/
def Obligations.UnknownMessageOnlyCounted : Prop :=
  ∀ (s : State) (h : Header) (m : Byte) (p : List Byte),
    exec (.unknown h m p) s
      = .next { s with counters := { s.counters with unknownMsgCount := s.counters.unknownMsgCount + 1 } }

/-! Motor frames received (44_axis_controller.md R375, R376; 43_motor_codec.md R300-R315). -/

/-- R300-R303, R309-R315: a successful reply of these eleven kinds changes only the raw record of the axis whose CAN_ID
it carries: the frame, its time, and the telemetry flag. -/
def Obligations.RawRepliesOnlyRecorded : Prop :=
  ∀ (s : State) (id : CanId) (r : RawReply) (i : Fin 6), s.cfg.valid = true → s.cfg.canId.get i = id →
    r.result = s.cfg.resultSuccess →
    ∀ k ∈ [(Instr.opResetConfig id r, s.cfg.op.resetConfig), (.opRefreshConfig id r, s.cfg.op.refreshConfig),
        (.opModifyConfig id r, s.cfg.op.modifyConfig), (.opRetrieveConfig id r, s.cfg.op.retrieveConfig),
        (.opStopCtrl id r, s.cfg.op.stopCtrl), (.opModifyParam id r, s.cfg.op.modifyParam),
        (.opRetrieveParam id r, s.cfg.op.retrieveParam), (.opGetVersion id r, s.cfg.op.getVersion),
        (.opGetFault id r, s.cfg.op.getFault), (.opAckFault id r, s.cfg.op.ackFault),
        (.opRetrieveIndicator id r, s.cfg.op.retrieveIndicator)],
      ∃ t, exec k.1 s = .next t
        ∧ OnlyAxisChanged s t i
            { s.axis i with
              rxFrame := ⟨k.2, r.result, r.data.x0, r.data.x1, r.data.x2, r.data.x3, r.data.x4, r.data.x5⟩
              rxTs := s.tickCount
              newTelemetry := true }

/-- R304, R376: a successful start reply arms the axis and queues a zero-velocity SPEED_CTRL frame with PD_DURATION (or
counts the drop), besides the raw record. -/
def Obligations.StartReplyArmsAxis : Prop :=
  ∀ (s : State) (id : CanId) (r : RawReply) (i : Fin 6), s.Inv → s.cfg.canId.get i = id →
    r.result = s.cfg.resultSuccess →
    ∃ t, exec (.opStartMotor id r) s = .next t
      ∧ OnlyAxisChanged s t i
          (let a := s.axis i
           { a with
             armed := true
             rxFrame := ⟨s.cfg.op.startMotor, r.result, r.data.x0, r.data.x1, r.data.x2, r.data.x3, r.data.x4,
               r.data.x5⟩
             rxTs := s.tickCount
             newTelemetry := true
             txq := if a.txq.length < s.cfg.canTxqDepth
               then a.txq ++ [⟨s.cfg.op.speedCtrl, 0, 0, 0, 0, byteAt s.cfg.pdDuration 0, byteAt s.cfg.pdDuration 1,
                 byteAt s.cfg.pdDuration 2⟩] else a.txq
             canTxDropCount := if a.txq.length < s.cfg.canTxqDepth then a.canTxDropCount
               else a.canTxDropCount + 1 })

/-- R305, R376: a successful stop reply disarms the axis, besides the raw record. -/
def Obligations.StopReplyDisarmsAxis : Prop :=
  ∀ (s : State) (id : CanId) (r : RawReply) (i : Fin 6), s.cfg.valid = true → s.cfg.canId.get i = id →
    r.result = s.cfg.resultSuccess →
    ∃ t, exec (.opStopMotor id r) s = .next t
      ∧ OnlyAxisChanged s t i
          { s.axis i with
            armed := false
            rxFrame := ⟨s.cfg.op.stopMotor, r.result, r.data.x0, r.data.x1, r.data.x2, r.data.x3, r.data.x4,
              r.data.x5⟩
            rxTs := s.tickCount
            newTelemetry := true }

/-- R306-R308, R376, R317-R319: a successful reply of the three control kinds stores the temperature and the three codes
converted to units, besides the raw record. -/
def Obligations.ControlRepliesStoreTelemetry : Prop :=
  ∀ (s : State) (id : CanId) (r : ControlReply) (i : Fin 6), s.cfg.valid = true → s.cfg.canId.get i = id →
    r.result = s.cfg.resultSuccess →
    ∀ k ∈ [(Instr.opTorqueCtrl id r, s.cfg.op.torqueCtrl), (.opSpeedCtrl id r, s.cfg.op.speedCtrl),
        (.opPositionCtrl id r, s.cfg.op.positionCtrl)],
      ∃ t, exec k.1 s = .next t
        ∧ OnlyAxisChanged s t i
            { s.axis i with
              temperature := r.temp
              theta := u2f r.pc.toNat s.cfg.posMin s.cfg.posMax 16
              omega := u2f r.vc.toNat s.cfg.velMin s.cfg.velMax 12
              tau := F32.mul (F32.mul (u2f r.tc.toNat s.cfg.curMin s.cfg.curMax 12) s.cfg.kt) s.cfg.gear
              rxFrame := encControl k.2 r
              rxTs := s.tickCount
              newTelemetry := true }

/-- R449: a reply of any of the sixteen kinds whose result is not success is recorded raw and counted; the decoded state
stays. -/
def Obligations.FailedRepliesOnlyCounted : Prop :=
  ∀ (s : State) (id : CanId) (r : RawReply) (q : ControlReply) (i : Fin 6), s.cfg.valid = true →
    s.cfg.canId.get i = id → r.result ≠ s.cfg.resultSuccess → q.result ≠ s.cfg.resultSuccess →
    (∀ k ∈ [(Instr.opResetConfig id r, s.cfg.op.resetConfig), (.opRefreshConfig id r, s.cfg.op.refreshConfig),
        (.opModifyConfig id r, s.cfg.op.modifyConfig), (.opRetrieveConfig id r, s.cfg.op.retrieveConfig),
        (.opStartMotor id r, s.cfg.op.startMotor), (.opStopMotor id r, s.cfg.op.stopMotor),
        (.opStopCtrl id r, s.cfg.op.stopCtrl), (.opModifyParam id r, s.cfg.op.modifyParam),
        (.opRetrieveParam id r, s.cfg.op.retrieveParam), (.opGetVersion id r, s.cfg.op.getVersion),
        (.opGetFault id r, s.cfg.op.getFault), (.opAckFault id r, s.cfg.op.ackFault),
        (.opRetrieveIndicator id r, s.cfg.op.retrieveIndicator)],
      ∃ t, exec k.1 s = .next t
        ∧ OnlyAxisChanged s t i
            { s.axis i with
              rxFrame := ⟨k.2, r.result, r.data.x0, r.data.x1, r.data.x2, r.data.x3, r.data.x4, r.data.x5⟩
              rxTs := s.tickCount
              newTelemetry := true
              motorErrCount := (s.axis i).motorErrCount + 1 })
    ∧ (∀ k ∈ [(Instr.opTorqueCtrl id q, s.cfg.op.torqueCtrl), (.opSpeedCtrl id q, s.cfg.op.speedCtrl),
        (.opPositionCtrl id q, s.cfg.op.positionCtrl)],
      ∃ t, exec k.1 s = .next t
        ∧ OnlyAxisChanged s t i
            { s.axis i with
              rxFrame := encControl k.2 q
              rxTs := s.tickCount
              newTelemetry := true
              motorErrCount := (s.axis i).motorErrCount + 1 })

/-- R447: a reply of any of the sixteen kinds whose identifier is no axis's CAN_ID is counted and touches no axis. -/
def Obligations.UnknownIdentifierDropped : Prop :=
  ∀ (s : State) (id : CanId) (r : RawReply) (q : ControlReply), (∀ i, s.cfg.canId.get i ≠ id) →
    ∀ k ∈ [Instr.opResetConfig id r, .opRefreshConfig id r, .opModifyConfig id r, .opRetrieveConfig id r,
        .opStartMotor id r, .opStopMotor id r, .opTorqueCtrl id q, .opSpeedCtrl id q, .opPositionCtrl id q,
        .opStopCtrl id r, .opModifyParam id r, .opRetrieveParam id r, .opGetVersion id r, .opGetFault id r,
        .opAckFault id r, .opRetrieveIndicator id r],
      exec k s
        = .next { s with counters :=
            { s.counters with canRxUnknownIdCount := s.counters.canRxUnknownIdCount + 1 } }

/-- R176, R375, R447: a CAN_RX frame whose byte 0 is none of the sixteen opcodes is recorded raw for the axis whose CAN_ID
it carries, and otherwise ignored; with an identifier that is no axis's CAN_ID it is counted and dropped. -/
def Obligations.ReservedOpcodeRecordedRaw : Prop :=
  ∀ (s : State) (id : CanId) (f : Frame) (later : List Event), s.cfg.valid = true →
    s.pending = .canRx id f :: later → f.b0 ∉ s.cfg.op.toList →
    (∀ i : Fin 6, s.cfg.canId.get i = id →
      ∃ t, step s = .next t
        ∧ OnlyAxisChanged { s with pending := later } t i
            { s.axis i with rxFrame := f, rxTs := s.tickCount, newTelemetry := true })
    ∧ ((∀ i : Fin 6, s.cfg.canId.get i ≠ id) →
      step s = .next { s with
        pending := later
        counters := { s.counters with canRxUnknownIdCount := s.counters.canRxUnknownIdCount + 1 } })

/-- R384, R123: of two successful control replies for one axis with no event between them, only the second shows: the
state is the one the second alone would have left. -/
def Obligations.LaterReplyReplacesEarlier : Prop :=
  ∀ (s : State) (id : CanId) (r q : ControlReply) (i : Fin 6), s.cfg.valid = true → s.cfg.canId.get i = id →
    r.result = s.cfg.resultSuccess → q.result = s.cfg.resultSuccess →
    ∀ k ∈ [Instr.opTorqueCtrl id r, .opSpeedCtrl id r, .opPositionCtrl id r],
    ∀ l ∈ [Instr.opTorqueCtrl id q, .opSpeedCtrl id q, .opPositionCtrl id q],
      ∃ u t, exec k s = .next u ∧ exec l u = .next t ∧ exec l s = .next t

/-! Steps: how an instruction comes to run. -/

/-- R256, R400: when PARSE_STEP comes next and a valid packet stands complete, the step executes the instruction that its
descriptor and payload decode to, returns the parser to AwaitStart, and moves the main loop on. -/
def Obligations.StepRunsCompletedMessage : Prop :=
  ∀ (s : State) (i : Instr) (later : List Event), s.cfg.valid = true →
    (s.pending = [] ∧ later = []) ∨ s.pending = .mainLoop :: later → s.slot = .parseStep →
    s.pstate = .packetComplete → s.info.isValid = true → fetchMessage s = .ok i →
    ∃ t, exec i { s with pending := later } = .next t
      ∧ step s = .next { t with pstate := .awaitStart, slot := .canDrain }

/-- R375: the step of a CAN_RX event executes the instruction that the frame decodes to. -/
def Obligations.StepRunsReceivedReply : Prop :=
  ∀ (s : State) (i : Instr) (id : CanId) (f : Frame) (later : List Event), s.cfg.valid = true →
    s.pending = .canRx id f :: later → decode s.cfg (.frame id f) = .ok i →
    ∃ t, exec i { s with pending := later } = .next t ∧ step s = .next t

/-- R121, R238, R256, R445: when PARSE_STEP comes next, the step is the parser's step with the schedule entry consumed and
the main loop moved on, in each of the four parser states, and under the invariant it answers a next state. On a complete
packet that is not valid it dispatches nothing: the parser returns to AwaitStart. -/
def Obligations.InvalidPacketNotDispatched : Prop :=
  ∀ (s : State) (later : List Event), s.cfg.valid = true →
    (s.pending = [] ∧ later = []) ∨ s.pending = .mainLoop :: later → s.slot = .parseStep →
    (∀ t, parseStep { s with pending := later } = .next t → step s = .next { t with slot := .canDrain })
    ∧ (s.Inv → ∃ t, parseStep { s with pending := later } = .next t)
    ∧ (s.pstate = .packetComplete → s.info.isValid = false →
      step s = .next { s with pending := later, pstate := .awaitStart, slot := .canDrain })

/-- R10: an instance whose parameters break a constraint of R9 is refused at every step. -/
def Obligations.InvalidParametersRefused : Prop :=
  ∀ s : State,
    (s.cfg.numAxes ≠ 6 ∨ s.cfg.rxCap < 12 ∨ s.cfg.txCap < 45 ∨ s.cfg.maxPacketSize < s.cfg.overhead
      ∨ 2 ^ 32 - 1 < s.cfg.maxPacketSize ∨ s.cfg.scratchWindow < 1 ∨ s.cfg.trajRows < 1
      ∨ ¬ s.cfg.msg.toList.Nodup ∨ ¬ s.cfg.op.toList.Nodup
      ∨ F32.lt s.cfg.posMin s.cfg.posMax = false ∨ F32.lt s.cfg.velMin s.cfg.velMax = false
      ∨ F32.lt s.cfg.curMin s.cfg.curMax = false ∨ F32.lt 0x00000000 s.cfg.angleLimit = false
      ∨ F32.lt 0x00000000 s.cfg.calStep = false
      ∨ F32.le (F32.div s.cfg.calStep 0x40000000) s.cfg.calTol = false
      ∨ s.cfg.dwellTicks < 1 ∨ s.cfg.debounceN < 1 ∨ ¬ s.cfg.canId.toList.Nodup ∨ s.cfg.canTxqDepth < 2
      ∨ 2 ^ 24 ≤ s.cfg.pdDuration.toNat) →
    step s = .refused .parametersRefused

/-- R362, R455: a TICK while not playing that meets a stage in 7..254 in the calibration step of axis `i`, with no such
stage in an earlier axis's calibration step, faults for axis `i`. -/
def Obligations.IllegalStageFaults : Prop :=
  ∀ (s : State) (limit : Six Bool) (later : List Event) (i : Fin 6), s.cfg.valid = true →
    s.pending = .tick limit :: later → s.playing = false →
    7 ≤ (s.axis i).stage.toNat → (s.axis i).stage.toNat ≤ 254 →
    (s.axis i).doCalibration = true → (s.axis i).calibrated = false →
    (∀ j, j < i → legalStage (s.axis j).stage = true ∨ (s.axis j).doCalibration = false
      ∨ (s.axis j).calibrated = true) →
    step s = .fault (.illegalStage i)

/-! Encodings (30_encoding.md, 43_motor_codec.md). -/

/-- R150-R166, R170-R175: decoding the encoding of a well-formed instruction gives it back, for every operand and every
valid parameter set. -/
def Obligations.DecodeInvertsEncode : Prop :=
  ∀ (c : Config) (i : Instr), c.valid = true → i.wellFormed c = true → decode c (encode c i) = .ok i

/-- R150-R166, R170-R175: a wire that decodes is the encoding of what it decodes to, and that is well formed: no bit of
an accepted wire is ignored. -/
def Obligations.EncodeInvertsDecode : Prop :=
  ∀ (c : Config) (w : Wire) (i : Instr), c.valid = true → decode c w = .ok i →
    encode c i = w ∧ i.wellFormed c = true

/-- The spec's own words: a HEARTBEAT (R251's example: header and footer; the CRC of R231), an ACK (R271's example), a
speed-control reply (R376's example) and a start reply (R304's example, R375's) decode to the instructions they stand
for. -/
def Obligations.SpecWordsDecode : Prop :=
  decode Config.default (.packet [0x7E, 0x11, 0x00, 0x00, 0x00, 0x00, 0x00, 0x00, 0x00, 0x00, 0x01, 0x01, 0x59, 0x8E,
      0xCA, 0xB7, 0x7F]) = .ok (.heartbeat ⟨0, 0, 1⟩ [])
    ∧ decode Config.default (.packet [0x7E, 0x16, 0x00, 0x00, 0x00, 0x00, 0x00, 0x00, 0x00, 0x01, 0x00, 0x08, 0x00, 0x00,
      0x00, 0x00, 0x01, 0x47, 0x22, 0x37, 0x0E, 0x7F]) = .ok (.ack ⟨0, 1, 0⟩ 0 1)
    ∧ decode Config.default (.frame 1 ⟨0x94, 0x00, 0x19, 0x00, 0x80, 0x00, 0x08, 0x80⟩)
      = .ok (.opSpeedCtrl 1 ⟨0, 25, 0x8000, 0x800, 0x800⟩)
    ∧ decode Config.default (.frame 1 ⟨0x91, 0x00, 0x00, 0x00, 0x00, 0x00, 0x00, 0x00⟩)
      = .ok (.opStartMotor 1 ⟨0, Six.replicate 0⟩)

/-- R290-R292, R300-R315: the request frame of each of the sixteen kinds; an argument that is not seven bytes is no
frame. -/
def Obligations.RequestFramesAsSpecified : Prop :=
  ∀ (c : Config) (v : F32) (d : U32) (a0 a1 a2 a3 a4 a5 a6 : Byte) (arg : List Byte),
    (∀ k ∈ [(Request.resetConfig, c.op.resetConfig), (.refreshConfig, c.op.refreshConfig),
        (.startMotor, c.op.startMotor), (.stopMotor, c.op.stopMotor), (.stopCtrl, c.op.stopCtrl),
        (.getVersion, c.op.getVersion), (.getFault, c.op.getFault)],
      encRequest c k.1 = some ⟨k.2, 0, 0, 0, 0, 0, 0, 0⟩)
    ∧ (∀ k ∈ [(Request.torqueCtrl v d, c.op.torqueCtrl), (.speedCtrl v d, c.op.speedCtrl),
        (.positionCtrl v d, c.op.positionCtrl)],
      encRequest c k.1 = some ⟨k.2, byteAt v 0, byteAt v 1, byteAt v 2, byteAt v 3, byteAt d 0, byteAt d 1,
        byteAt d 2⟩)
    ∧ (∀ k ∈ [(Request.modifyConfig, c.op.modifyConfig), (.retrieveConfig, c.op.retrieveConfig),
        (.modifyParam, c.op.modifyParam), (.retrieveParam, c.op.retrieveParam), (.ackFault, c.op.ackFault),
        (.retrieveIndicator, c.op.retrieveIndicator)],
      encRequest c (k.1 [a0, a1, a2, a3, a4, a5, a6]) = some ⟨k.2, a0, a1, a2, a3, a4, a5, a6⟩
        ∧ (arg.length ≠ 7 → encRequest c (k.1 arg) = none))

/-- R324: the round-trip laws of the motor codec: (1) f32+dur frames, (2) control frames, (3) the codes at the range ends
of every default range, and the interior codes for which truncation loses one. -/
def Obligations.MotorCodecRoundTrips : Prop :=
  (∀ (op : Byte) (v : F32) (d : U32), d.toNat < 2 ^ 24 → decF32Dur op (encF32Dur op v d) = (true, v, d))
    ∧ (∀ (op : Byte) (r : ControlReply), decControl op (encControl op r) = some r)
    ∧ (∀ k ∈ [((0xC1480000 : F32), (0x41480000 : F32), 16), (0xC2820000, 0x42820000, 12), (0xC3610000, 0x43610000, 12)],
      f2u (u2f 0 k.1 k.2.1 k.2.2) k.1 k.2.1 k.2.2 = 0
        ∧ f2u (u2f (2 ^ k.2.2 - 1) k.1 k.2.1 k.2.2) k.1 k.2.1 k.2.2 = 2 ^ k.2.2 - 1)
    ∧ f2u (u2f 1 0xC1480000 0x41480000 16) 0xC1480000 0x41480000 16 = 0
    ∧ f2u (u2f 1 0xC2820000 0x42820000 12) 0xC2820000 0x42820000 12 = 0
    ∧ f2u (u2f 3 0xC3610000 0x43610000 12) 0xC3610000 0x43610000 12 = 2

/-- R277: the three kinds of frame that `send_packet` builds decode, under the same parameters, to the packet sent, where
MAX_PACKET_SIZE admits the largest of them. -/
def Obligations.BuiltFramesDecode : Prop :=
  ∀ (s : State) (dest m : Byte) (q : U32) (fb : Feedback), s.cfg.valid = true → 45 ≤ s.cfg.maxPacketSize →
    decode s.cfg (.packet (outFrame s s.cfg.msg.ack dest (answerToBytes q m)))
        = .ok (.ack ⟨s.txSeq, s.cfg.nodeId, dest⟩ q m)
      ∧ decode s.cfg (.packet (outFrame s s.cfg.msg.nak dest (answerToBytes q m)))
        = .ok (.nak ⟨s.txSeq, s.cfg.nodeId, dest⟩ q m)
      ∧ decode s.cfg (.packet (outFrame s s.cfg.msg.feedback dest (feedbackToBytes fb)))
        = .ok (.feedback ⟨s.txSeq, s.cfg.nodeId, dest⟩ fb)

/-! Ring buffers and ports (40_ringbuffer.md). -/

/-- R211, R200: over any sequence of operations, what was stored at first and then accepted is what was returned and then
is still stored, in order; and the invariants hold after it, so `count` never exceeds the capacity. -/
def Obligations.RingIsFifo : Prop :=
  ∀ (n : Nat) (r : Ring) (os : List RingOp), n < 2 ^ 32 → Ring.wf n r = true →
    let a := RingOp.applyAll n r os
    Ring.wf n a.1 = true ∧ a.2.2 ++ Ring.content n a.1 = Ring.content n r ++ a.2.1

/-- R207: RX_POLL moves as many offered bytes as fit into RB.RX, in order; the rest stays offered. -/
def Obligations.RxPollTakesWhatFits : Prop :=
  ∀ (s : State) (later : List Event), s.Inv →
    (s.pending = [] ∧ later = []) ∨ s.pending = .mainLoop :: later → s.slot = .rxPoll →
    let k := min s.rxIn.length (s.cfg.rxCap - s.rx.count.toNat)
    ∃ t, step s = .next t
      ∧ t = { s with pending := later, rx := t.rx, rxIn := s.rxIn.drop k, slot := .parseStep }
      ∧ Ring.content s.cfg.rxCap t.rx = Ring.content s.cfg.rxCap s.rx ++ s.rxIn.take k

/-- R209: TX_DRAIN(k) delivers the oldest `k` bytes of RB.TX, or all of them, in order. -/
def Obligations.TxDrainDeliversOldest : Prop :=
  ∀ (s : State) (k : Nat) (later : List Event), s.Inv → s.pending = .txDrain k :: later →
    ∃ t, step s = .next t
      ∧ t = { s with pending := later, tx := t.tx, txOut := s.txOut ++ (Ring.content s.cfg.txCap s.tx).take k }
      ∧ Ring.content s.cfg.txCap t.tx = (Ring.content s.cfg.txCap s.tx).drop k

/-- R378: CAN_DRAIN sends the oldest frame of every axis that has one, in axis order, and records it. -/
def Obligations.CanDrainSendsOnePerAxis : Prop :=
  ∀ (s : State) (later : List Event), s.cfg.valid = true →
    (s.pending = [] ∧ later = []) ∨ s.pending = .mainLoop :: later → s.slot = .canDrain →
    ∃ t, step s = .next t
      ∧ t = { s with pending := later, slot := .rxPoll, canOut := t.canOut, axes := t.axes }
      ∧ t.canOut = s.canOut
          ++ ([0, 1, 2, 3, 4, 5] : List (Fin 6)).filterMap
              (fun i => (s.axis i).txq.head?.map (fun f => (s.cfg.canId.get i, f)))
      ∧ ∀ i, t.axis i =
          match (s.axis i).txq with
          | [] => s.axis i
          | f :: rest => { s.axis i with txq := rest, txFrame := f, txTs := s.tickCount }

/-! The parser (41_parser.md). -/

/-- R239, R240, R442: an AwaitStart step drops and counts the bytes before the first start marker, consumes the marker and
begins a cycle; without a marker it drops and counts everything and stays. -/
def Obligations.ScanFindsStartMarker : Prop :=
  (∀ (s : State) (junk rest : List Byte), s.Inv → s.pstate = .awaitStart → s.cfg.startMarker ∉ junk →
    Ring.content s.cfg.rxCap s.rx = junk ++ s.cfg.startMarker :: rest →
    ∃ t, parseStep s = .next t
      ∧ Ring.content s.cfg.rxCap t.rx = rest
      ∧ t = { s with
          rx := t.rx
          info := ⟨0, 0, 0, 0, 0, 0, false⟩
          crc := crc32Update 0xFFFFFFFF s.cfg.startMarker
          payloadRead := 0
          pstate := .awaitHeader
          counters := { s.counters with rxDiscardCount := s.counters.rxDiscardCount + u32 junk.length } })
  ∧ (∀ s : State, s.Inv → s.pstate = .awaitStart →
    s.cfg.startMarker ∉ Ring.content s.cfg.rxCap s.rx →
    ∃ t, parseStep s = .next t
      ∧ Ring.content s.cfg.rxCap t.rx = []
      ∧ t = { s with
          rx := t.rx
          counters := { s.counters with rxDiscardCount := s.counters.rxDiscardCount + s.rx.count } })

/-- R244-R248, R450: an AwaitHeader step with a whole header consumes exactly its eleven bytes, records the fields, and
goes by the length check first, then the size check. -/
def Obligations.HeaderStepOutcomes : Prop :=
  ∀ (s : State) (hb rest : List Byte), s.Inv → s.pstate = .awaitHeader → hb.length = 11 →
    Ring.content s.cfg.rxCap s.rx = hb ++ rest →
    ∃ t, parseStep s = .next t
      ∧ Ring.content s.cfg.rxCap t.rx = rest
      ∧ t = { s with
          rx := t.rx, crc := crc32Fold s.crc hb, pstate := t.pstate, info := t.info, counters := t.counters }
      ∧ (let len := wordAt hb 0
         let info (p : U32) : PacketInfo :=
           ⟨len, wordAt hb 4, p, hb.getD 8 0, hb.getD 9 0, hb.getD 10 0, false⟩
         if len.toNat < s.cfg.overhead ∨ s.cfg.maxPacketSize < len.toNat then
           t.pstate = .awaitStart ∧ t.info = info 0
             ∧ t.counters = { s.counters with rxLengthErrCount := s.counters.rxLengthErrCount + 1 }
         else
           t.info = info (u32 (len.toNat - s.cfg.overhead))
             ∧ if sizeOk s.cfg (hb.getD 10 0) (len.toNat - s.cfg.overhead) = true then
                 t.pstate = .awaitPayloadCrc ∧ t.counters = s.counters
               else
                 t.pstate = .awaitStart
                   ∧ t.counters = { s.counters with rxSizeErrCount := s.counters.rxSizeErrCount + 1 })

/-- R244, R250-R254, R258, R450: a parser that lacks the bytes it needs waits, changing nothing: in AwaitHeader with fewer
than eleven bytes; in AwaitPayloadCrc with no byte, or with the payload read and less than a footer. And one AwaitPayloadCrc
step, whatever is buffered: it takes the next `k` payload bytes, as many as are there, outstanding, and in one window, to PB
at `payloadRead`, and folds them into `crc`; then, while payload is outstanding or less than a footer is left, it stays;
otherwise it takes the footer and judges the packet. So a packet may come in any pieces, and be longer than RB.RX. -/
def Obligations.IncompletePacketWaits : Prop :=
  (∀ s : State, s.Inv →
    (s.pstate = .awaitHeader ∧ s.rx.count.toNat < 11)
      ∨ (s.pstate = .awaitPayloadCrc ∧ s.rx.count.toNat < s.cfg.footerSize
          ∧ (s.rx.count = 0 ∨ s.payloadRead = s.info.payloadSize)) →
    parseStep s = .next s)
  ∧ ∀ s : State, s.Inv → s.pstate = .awaitPayloadCrc →
    let buffered := Ring.content s.cfg.rxCap s.rx
    let start := s.payloadRead.toNat
    let size := s.info.payloadSize.toNat
    let k := min (min buffered.length (size - start)) s.cfg.scratchWindow
    let crc := crc32Fold s.crc (buffered.take k)
    let footer := (buffered.drop k).take s.cfg.footerSize
    let crcOk := wordAt footer 0 = crc ^^^ 0xFFFFFFFF
    let endOk := s.cfg.hasEndMarker = false ∨ footer.getD 4 0 = s.cfg.endMarker
    ∃ t, parseStep s = .next t
      ∧ Memory.readBytes t.pb start k = buffered.take k
      ∧ (∀ a, a < start ∨ start + k ≤ a → Memory.read t.pb a = Memory.read s.pb a)
      ∧ if start + k < size ∨ buffered.length - k < s.cfg.footerSize then
          Ring.content s.cfg.rxCap t.rx = buffered.drop k
            ∧ t = { s with rx := t.rx, crc := crc, pb := t.pb, payloadRead := u32 (start + k) }
        else
          Ring.content s.cfg.rxCap t.rx = buffered.drop (k + s.cfg.footerSize)
            ∧ t = { s with
                rx := t.rx
                crc := crc
                pb := t.pb
                payloadRead := s.info.payloadSize
                pstate := .packetComplete
                info := { s.info with isValid := t.info.isValid }
                counters := t.counters }
            ∧ (t.info.isValid = true ↔ crcOk ∧ endOk)
            ∧ t.counters =
                if crcOk then
                  if endOk then { s.counters with rxOkCount := s.counters.rxOkCount + 1 }
                  else { s.counters with rxEndErrCount := s.counters.rxEndErrCount + 1 }
                else { s.counters with
                  rxCrcErrCount := s.counters.rxCrcErrCount + 1
                  lastExpectedCrc := wordAt footer 0
                  lastComputedCrc := crc ^^^ 0xFFFFFFFF }

/-- R252-R254, R259, R450: a buffered packet, corrupted or not, is consumed exactly; its verdict is the CRC over start
marker, header and payload together with the end marker, and at most one condition is counted, CRC first. `crc` is left at the
fold over those bytes, and PB beyond the payload reads as before. The packet is whole when the first step is taken; for packets
that arrive in pieces see the single steps (ScanFindsStartMarker, HeaderStepOutcomes, IncompletePacketWaits). -/
def Obligations.BufferedPacketVerdict : Prop :=
  ∀ (s : State) (hb pl ft rest : List Byte), s.Inv → Buffered s hb pl ft rest →
    let computed := crc32 ([s.cfg.startMarker] ++ hb ++ pl)
    let endOk := s.cfg.hasEndMarker = false ∨ ft.getD 4 0 = s.cfg.endMarker
    ∃ t, parseRun (2 + payloadSteps s.cfg pl.length) s = .next t
      ∧ Ring.content s.cfg.rxCap t.rx = rest
      ∧ Memory.readBytes t.pb 0 pl.length = pl
      ∧ (∀ a, pl.length ≤ a → Memory.read t.pb a = Memory.read s.pb a)
      ∧ t = { s with
          rx := t.rx
          pstate := .packetComplete
          crc := crc32Fold 0xFFFFFFFF ([s.cfg.startMarker] ++ hb ++ pl)
          payloadRead := u32 pl.length
          pb := t.pb
          info := ⟨wordAt hb 0, wordAt hb 4, u32 pl.length, hb.getD 8 0, hb.getD 9 0, hb.getD 10 0, t.info.isValid⟩
          counters := t.counters }
      ∧ (t.info.isValid = true ↔ wordAt ft 0 = computed ∧ endOk)
      ∧ t.counters =
          if wordAt ft 0 = computed then
            if endOk then { s.counters with rxOkCount := s.counters.rxOkCount + 1 }
            else { s.counters with rxEndErrCount := s.counters.rxEndErrCount + 1 }
          else { s.counters with
            rxCrcErrCount := s.counters.rxCrcErrCount + 1
            lastExpectedCrc := wordAt ft 0
            lastComputedCrc := computed }

/-- R257: a packet whose bytes are all buffered takes one AwaitStart step, one AwaitHeader step, `max(1, ⌈p/W⌉)`
AwaitPayloadCrc steps and one PacketComplete step, in that order, valid or not. -/
def Obligations.PacketStepCount : Prop :=
  ∀ (s : State) (hb pl ft rest : List Byte) (k : Nat), s.Inv → Buffered s hb pl ft rest →
    k ≤ 3 + payloadSteps s.cfg pl.length →
    ∃ t, parseRun k s = .next t
      ∧ t.pstate =
          if k = 0 then .awaitStart
          else if k = 1 then .awaitHeader
          else if k < 2 + payloadSteps s.cfg pl.length then .awaitPayloadCrc
          else if k = 2 + payloadSteps s.cfg pl.length then .packetComplete
          else .awaitStart

/-- R260, R256: a buffered packet that encodes a well-formed instruction is parsed valid and that instruction is executed,
on a state that differs from the first only in the parser's elements and `rxOkCount`; the bytes after the packet stay. -/
def Obligations.BufferedMessageExecuted : Prop :=
  ∀ (s : State) (i : Instr) (bs rest : List Byte), s.Inv → s.pstate = .awaitStart →
    i.wellFormed s.cfg = true → encode s.cfg i = .packet bs →
    Ring.content s.cfg.rxCap s.rx = bs ++ rest →
    ∃ t u, fetchMessage t = .ok i ∧ exec i t = .next u
      ∧ parseRun (3 + payloadSteps s.cfg (bs.length - s.cfg.overhead)) s = .next { u with pstate := .awaitStart }
      ∧ Ring.content s.cfg.rxCap t.rx = rest
      ∧ t = { s with
          rx := t.rx
          pstate := .packetComplete
          crc := t.crc
          payloadRead := t.payloadRead
          pb := t.pb
          info := t.info
          counters := { s.counters with rxOkCount := s.counters.rxOkCount + 1 } }

/-! The axis controller (44_axis_controller.md). -/

/-- R352: `n` consecutive samples that disagree with `sw` leave it until DEBOUNCE_N of them have come; an agreeing sample
clears the count. `debCount` is a u8 (R45), so DEBOUNCE_N is taken below 256. -/
def Obligations.DebounceFollowsAfterN : Prop :=
  ∀ (c : Config) (a : Axis) (n : Nat), c.valid = true → c.debounceN < 2 ^ 8 → a.debCount = 0 → n ≤ c.debounceN →
    (Axis.debounce c (!a.sw))^[n] a
        = (if n < c.debounceN then { a with debCount := BitVec.ofNat 8 n } else { a with sw := !a.sw, debCount := 0 })
      ∧ ∀ b : Axis, Axis.debounce c b.sw b = { b with debCount := 0 }

/-- R353-R361: the calibration step does nothing while its gate is closed, and otherwise the work of exactly the stage it
finds. -/
def Obligations.CalibrationStepByStage : Prop :=
  ∀ (c : Config) (d : Direction) (a : Axis),
    let dir : F32 := if d = .plus then 0x3F800000 else 0xBF800000
    let forward : Axis := { a with setPoint := F32.add a.setPoint (F32.mul dir c.calStep) }
    let back : Axis := { a with setPoint := F32.sub a.setPoint (F32.mul dir c.calStep) }
    let e := F32.sub a.offset a.setPoint
    (a.doCalibration = false ∨ a.calibrated = true → a.calibrate c d = some a)
    ∧ (a.doCalibration = true ∧ a.calibrated = false →
      (a.stage = 255 → a.calibrate c d = some { a with setPoint := a.theta, stage := 0 })
      ∧ (a.stage = 0 → a.calibrate c d = some (if a.sw then { a with stage := 1, dwell := 0 } else forward))
      ∧ (a.stage = 1 → a.calibrate c d = some { a with
          dwell := a.dwell + 1
          stage := if c.dwellTicks ≤ (a.dwell + 1).toNat then 2 else 1 })
      ∧ (a.stage = 2 → a.calibrate c d = some (if a.sw then back else { a with angle1 := a.theta, stage := 3 }))
      ∧ (a.stage = 3 → a.calibrate c d = some (if a.sw then { a with stage := 4 } else back))
      ∧ (a.stage = 4 → a.calibrate c d = some (if a.sw then forward else { a with
          angle2 := a.theta
          offset := F32.div (F32.add a.angle1 a.theta) 0x40000000
          stage := 5 }))
      ∧ (a.stage = 5 → a.calibrate c d = some (
          if F32.le (F32.abs e) c.calTol then { a with stage := 6 }
          else if F32.lt 0x00000000 e then { a with setPoint := F32.add a.setPoint c.calStep }
          else { a with setPoint := F32.sub a.setPoint c.calStep }))
      ∧ (a.stage = 6 → a.calibrate c d
          = some { a with calibrated := true, doCalibration := false, stage := 0 }))

/-- R356: the dwell lasts exactly DWELL_TICKS calibration steps, whatever the switch does. `dwell` is a u32
(R44), so DWELL_TICKS is taken below 2^32. -/
def Obligations.DwellLastsDwellTicks : Prop :=
  ∀ (c : Config) (d : Direction) (a : Axis) (levels : List Bool), c.valid = true → c.dwellTicks < 2 ^ 32 →
    a.doCalibration = true → a.calibrated = false → a.stage = 1 → a.dwell = 0 →
    levels.length ≤ c.dwellTicks →
    levels.foldlM (fun b level => Axis.calibrate c d { b with sw := level }) a
      = some { a with
          sw := levels.getLast?.getD a.sw
          dwell := u32 levels.length
          stage := if levels.length = c.dwellTicks then 2 else 1 }

/-- R44, R362-R363, R402, R470: in any step the stage of an axis stays, becomes 255, or goes to the next of the listed
stages: 255 only in RESET, or in the dispatch of ENABLE to an axis that is not calibrated; the next only in a TICK with the
calibration gate open. -/
def Obligations.StageFollowsListedOrder : Prop :=
  ∀ (s t : State) (i : Fin 6), step s = .next t →
    (t.axis i).stage = (s.axis i).stage
      ∨ ((t.axis i).stage = 255
          ∧ ((∃ later, s.pending = .reset :: later)
            ∨ (Dispatches s s.cfg.msg.enable ∧ (s.axis i).calibrated = false)))
      ∨ ((∃ limit later, s.pending = .tick limit :: later)
          ∧ (s.axis i).doCalibration = true ∧ (s.axis i).calibrated = false
          ∧ ((s.axis i).stage, (t.axis i).stage)
              ∈ [((255 : Byte), (0 : Byte)), (0, 1), (1, 2), (2, 3), (3, 4), (4, 5), (5, 6), (6, 0)])

/-- R361, R46, R470: `calibrated` changes only when a TICK finishes stage 6 with the gate open, to true with the request
cleared; or when RESET clears it. -/
def Obligations.CalibratedSetOnlyAtFinish : Prop :=
  ∀ (s t : State) (i : Fin 6), step s = .next t → (t.axis i).calibrated ≠ (s.axis i).calibrated →
    ((∃ limit later, s.pending = .tick limit :: later)
        ∧ (s.axis i).stage = 6 ∧ (s.axis i).doCalibration = true
        ∧ (t.axis i).calibrated = true ∧ (t.axis i).doCalibration = false ∧ (t.axis i).stage = 0)
      ∨ ((∃ later, s.pending = .reset :: later) ∧ (t.axis i).calibrated = false)

/-- R365-R367, R377: the PD step of an armed axis queues the clamped velocity command (a NaN becomes 0.0), or counts the
drop when the queue is full; an axis not armed does nothing. -/
def Obligations.PdCommandQueued : Prop :=
  ∀ (c : Config) (a : Axis),
    let w := F32.sub (F32.mul (F32.sub a.setPoint a.theta) a.p) (F32.mul a.omega a.d)
    let v : F32 := if F32.isNaN w then 0x00000000 else if F32.lt a.vLim w then a.vLim
      else if F32.lt w (F32.neg a.vLim) then F32.neg a.vLim else w
    let f : Frame := ⟨c.op.speedCtrl, byteAt v 0, byteAt v 1, byteAt v 2, byteAt v 3, byteAt c.pdDuration 0,
      byteAt c.pdDuration 1, byteAt c.pdDuration 2⟩
    a.pdIssue c =
      if a.armed = false then a
      else if a.txq.length = c.canTxqDepth then { a with canTxDropCount := a.canTxDropCount + 1 }
      else { a with txq := a.txq ++ [f] }

/-- R366, R369: a clamped velocity lies within ±vLim and a clamped angle within ±ANGLE_LIMIT, in the IEEE order. -/
def Obligations.ClampsStayInRange : Prop :=
  (∀ vLim v : F32, F32.le 0x00000000 vLim = true →
    F32.le (F32.neg vLim) (clampVelocity vLim v) = true ∧ F32.le (clampVelocity vLim v) vLim = true)
  ∧ (∀ (c : Config) (b : F32), c.valid = true → F32.isNaN b = false →
    F32.le (F32.neg c.angleLimit) (clampAngle c b) = true ∧ F32.le (clampAngle c b) c.angleLimit = true)

/-- R382, R383, R275: the feedback of an axis sends its snapshot, computed in the body frame, to HOST_ID, keeps it in
`fb`, clears the telemetry flag, and touches no other axis. -/
def Obligations.FeedbackSendsSnapshot : Prop :=
  ∀ (s : State) (i : Fin 6), s.Inv →
    let a := s.axis i
    let dir : F32 := if s.cfg.direction.get i = .plus then 0x3F800000 else 0xBF800000
    let fb : Feedback :=
      { axisId := s.cfg.axisId.get i
        stage := a.stage
        flags := (if a.armed then 1 else 0) ||| (if a.calibrated then 2 else 0)
          ||| (if a.doCalibration then 4 else 0) ||| (if a.sw then 8 else 0)
        temperature := a.temperature
        angle := F32.mul (F32.sub a.theta a.offset) dir
        velocity := F32.mul a.omega dir
        torque := F32.mul a.tau dir
        setPoint := F32.mul (F32.sub a.setPoint a.offset) dir
        rxTs := a.rxTs
        txTs := a.txTs }
    let t := feedbackAxis i s
    Sent s t s.cfg.msg.feedback s.cfg.hostId (feedbackToBytes fb)
      ∧ t = { withTransmit s t with axes := t.axes }
      ∧ t.axis i = { a with fb := fb, newTelemetry := false }
      ∧ ∀ j, j ≠ i → t.axis j = s.axis j

/-- R380, R381, R382, R271, R275, R448, R493: a TICK counts itself, debounces every switch, plays one row, and then on each
axis does the calibration step, the PD step and the feedback in that order. Each axis with new telemetry sends one FEEDBACK
packet with the snapshot it keeps: in axis order, with consecutive sequence numbers, the packets are appended to RB.TX as far
as they fit, and each that does not fit whole is counted. Nothing else changes. -/
def Obligations.TickDoesEachAxisInOrder : Prop :=
  ∀ (s : State) (limit : Six Bool) (later : List Event), s.Inv → s.pending = .tick limit :: later →
    let plays := s.playing = true ∧ s.arrayLength ≠ 0
    let reporting := ([0, 1, 2, 3, 4, 5] : List (Fin 6)).filter fun i => (s.axis i).newTelemetry
    let room := s.cfg.txCap - s.tx.count.toNat
    ∃ t, step s = .next t
      ∧ t = { withTransmit s t with
          pending := later
          tickCount := s.tickCount + 1
          trajIndex := if plays then u32 ((s.trajIndex.toNat + 1) % s.arrayLength.toNat) else s.trajIndex
          axes := t.axes }
      ∧ Appended s.cfg.txCap s.tx t.tx
          (reporting.mapIdx fun k i =>
            packetBytes s.cfg ⟨s.txSeq + u32 k, s.cfg.nodeId, s.cfg.hostId⟩ s.cfg.msg.feedback
              (feedbackToBytes (t.axis i).fb)).flatten
      ∧ t.txSeq = s.txSeq + u32 reporting.length
      ∧ t.counters.txTruncCount = s.counters.txTruncCount
          + u32 ((List.range reporting.length).countP fun k => room < (k + 1) * (28 + s.cfg.overhead))
      ∧ ∀ i,
          let dir := s.cfg.direction.get i
          let a := (s.axis i).debounce s.cfg (limit.get i)
          let b := if plays then a.applySetpoint s.cfg dir ((trajRow s.traj s.trajIndex.toNat).get i) else a
          ∃ e, b.calibrate s.cfg dir = some e
            ∧ t.axis i =
                (let f := e.pdIssue s.cfg
                 if f.newTelemetry then { f with fb := f.snapshot (s.cfg.axisId.get i) dir, newTelemetry := false }
                 else f)

/-- R474: a TICK while nothing plays, and no axis is armed, calibrating or has new telemetry, changes only `tickCount`
and the debounced switches. -/
def Obligations.IdleTickOnlyCountsAndDebounces : Prop :=
  ∀ (s : State) (limit : Six Bool) (later : List Event), s.cfg.valid = true → s.pending = .tick limit :: later →
    s.playing = false →
    (∀ i, (s.axis i).armed = false ∧ (s.axis i).newTelemetry = false ∧ (s.axis i).doCalibration = false) →
    ∃ t, step s = .next t
      ∧ t = { s with pending := later, tickCount := s.tickCount + 1, axes := t.axes }
      ∧ ∀ i, t.axis i = { s.axis i with sw := (t.axis i).sw, debCount := (t.axis i).debCount }

/-! Whole-machine rules. -/

/-- R46, R47, R49, R123: outside CAN_RX and RESET, no step changes what CAN_RX alone writes (`armed`, the measured values,
the received frame, the error count), and none sets `newTelemetry`. -/
def Obligations.TelemetryWrittenOnlyByCanRx : Prop :=
  ∀ (s t : State) (i : Fin 6), step s = .next t →
    (∀ id f later, s.pending ≠ .canRx id f :: later) → (∀ later, s.pending ≠ .reset :: later) →
    (t.axis i).armed = (s.axis i).armed
      ∧ (t.axis i).theta = (s.axis i).theta ∧ (t.axis i).omega = (s.axis i).omega
      ∧ (t.axis i).tau = (s.axis i).tau ∧ (t.axis i).temperature = (s.axis i).temperature
      ∧ (t.axis i).rxFrame = (s.axis i).rxFrame ∧ (t.axis i).rxTs = (s.axis i).rxTs
      ∧ (t.axis i).motorErrCount = (s.axis i).motorErrCount
      ∧ ((t.axis i).newTelemetry = true → (s.axis i).newTelemetry = true)

/-- R101, R37: the trajectory and its length change only in RESET, or in the PARSE_STEP that dispatches a valid UPLOAD. -/
def Obligations.TrajectoryWrittenOnlyByUpload : Prop :=
  ∀ s t : State, step s = .next t → (∀ later, s.pending ≠ .reset :: later) →
    t.traj ≠ s.traj ∨ t.arrayLength ≠ s.arrayLength →
    Dispatches s s.cfg.msg.upload

/-- R43, R55: no step changes a parameter or a per-axis constant. -/
def Obligations.ParametersNeverChange : Prop :=
  ∀ s t : State, step s = .next t → t.cfg = s.cfg

/-- R470, R472: the RESET event sets every element to its reset value and writes no port; RX_POLL is next. That the
buffers' contents, which R470 leaves unspecified, become empty is the model's choice (notes/assumptions/4.md). -/
def Obligations.ResetEventRestoresPowerOn : Prop :=
  ∀ (s : State) (later : List Event), s.cfg.valid = true → s.pending = .reset :: later →
    step s = .next { State.powerOn s.cfg with
      pending := later, rxIn := s.rxIn, txOut := s.txOut, canOut := s.canOut }

/-- R470, R471, R472: the values after power-on, for every parameter set. -/
def Obligations.PowerOnValues : Prop :=
  ∀ c : Config,
    let s := State.powerOn c
    (s.rx.head = 0 ∧ s.rx.tail = 0 ∧ s.rx.count = 0 ∧ s.tx.head = 0 ∧ s.tx.tail = 0 ∧ s.tx.count = 0)
      ∧ (s.pstate = .awaitStart ∧ s.pstate.code = 0 ∧ s.crc = 0xFFFFFFFF ∧ s.payloadRead = 0
        ∧ s.info = ⟨0, 0, 0, 0, 0, 0, false⟩)
      ∧ (s.playing = false ∧ s.arrayLength = 0 ∧ s.trajIndex = 0)
      ∧ (s.txSeq = 0 ∧ s.tickCount = 0 ∧ s.counters = ⟨0, 0, 0, 0, 0, 0, 0, 0, 0, 0, 0, 0, 0⟩)
      ∧ s.slot = .rxPoll
      ∧ ∀ i, s.axis i =
          { stage := 255, dwell := 0, angle1 := 0, angle2 := 0, offset := 0, sw := false, debCount := 0,
            armed := false, calibrated := false, doCalibration := false, newTelemetry := false,
            theta := 0, omega := 0, tau := 0, setPoint := 0, temperature := 0,
            p := c.pIdle, d := c.dIdle, vLim := c.vLimIdle,
            txFrame := ⟨0, 0, 0, 0, 0, 0, 0, 0⟩, rxFrame := ⟨0, 0, 0, 0, 0, 0, 0, 0⟩, txTs := 0, rxTs := 0,
            txq := [], fb := ⟨0, 0, 0, 0, 0, 0, 0, 0, 0, 0⟩, motorErrCount := 0, canTxDropCount := 0 }

/-- The invariant holds right after power-on, for every valid parameter set (R470, R474). -/
def Obligations.PowerOnMeetsInvariant : Prop :=
  ∀ c : Config, c.valid = true → (State.powerOn c).Inv

/-- R32, R34, R37, R38, R44, R45, R48, R49, R200: every step keeps the invariant. -/
def Obligations.EveryStepKeepsInvariant : Prop :=
  ∀ s t : State, s.Inv → step s = .next t → t.Inv

/-- R455, R362: from a state that meets the invariant, a step never faults and never refuses. -/
def Obligations.NoStopFromInvariant : Prop :=
  ∀ s : State, s.Inv → ∃ t, step s = .next t

end
end

