-- ==== Sys2Proof/Laws/Bytes.lean ====
section
/-! SUPPORT. The laws of byte order and bit fields, and of the CRC fold. -/

namespace Sys2Proof

@[simp] theorem le32_byteAt (v : U32) : le32 (byteAt v 0) (byteAt v 1) (byteAt v 2) (byteAt v 3) = v := by
  apply BitVec.eq_of_toNat_eq
  have := v.isLt
  simp only [le32, byteAt, BitVec.toNat_ofNat]
  omega

theorem byteAt_le32 (b0 b1 b2 b3 : Byte) :
    byteAt (le32 b0 b1 b2 b3) 0 = b0 ∧ byteAt (le32 b0 b1 b2 b3) 1 = b1
      ∧ byteAt (le32 b0 b1 b2 b3) 2 = b2 ∧ byteAt (le32 b0 b1 b2 b3) 3 = b3 := by
  have h0 := b0.isLt
  have h1 := b1.isLt
  have h2 := b2.isLt
  have h3 := b3.isLt
  refine ⟨?_, ?_, ?_, ?_⟩ <;> apply BitVec.eq_of_toNat_eq <;>
    simp only [le32, byteAt, BitVec.toNat_ofNat] <;> omega

/-- `bytes_le32` is the inverse of `le32` (R12). -/
theorem bytesLe32_le32 (b0 b1 b2 b3 : Byte) : bytesLe32 (le32 b0 b1 b2 b3) = [b0, b1, b2, b3] := by
  simp [bytesLe32, byteAt_le32]

@[simp] theorem length_bytesLe32 (v : U32) : (bytesLe32 v).length = 4 := rfl

/-- The 24-bit field keeps bits 23..0 of a value. -/
theorem le24_byteAt (v : U32) :
    le24 (byteAt v 0) (byteAt v 1) (byteAt v 2) = BitVec.ofNat 32 (v.toNat % 2 ^ 24) := by
  apply BitVec.eq_of_toNat_eq
  simp only [le24, byteAt, BitVec.toNat_ofNat]
  omega

@[simp] theorem le16_byteAt (v : BitVec 16) : le16 (byteAt v 0) (byteAt v 1) = v := by
  apply BitVec.eq_of_toNat_eq
  have := v.isLt
  simp only [le16, byteAt, BitVec.toNat_ofNat]
  omega

theorem byteAt_le16 (b0 b1 : Byte) : byteAt (le16 b0 b1) 0 = b0 ∧ byteAt (le16 b0 b1) 1 = b1 := by
  have h0 := b0.isLt
  have h1 := b1.isLt
  refine ⟨?_, ?_⟩ <;> apply BitVec.eq_of_toNat_eq <;>
    simp only [le16, byteAt, BitVec.toNat_ofNat] <;> omega

@[simp] theorem velocityCode_sharedNibbles (vc tc : BitVec 12) :
    velocityCode (byteAt vc 0) (sharedNibbles vc tc) = vc := by
  apply BitVec.eq_of_toNat_eq
  have := vc.isLt
  simp only [velocityCode, sharedNibbles, byteAt, BitVec.toNat_ofNat]
  omega

@[simp] theorem torqueCode_sharedNibbles (vc tc : BitVec 12) :
    torqueCode (sharedNibbles vc tc) (torqueHighByte tc) = tc := by
  apply BitVec.eq_of_toNat_eq
  have := vc.isLt
  have := tc.isLt
  simp only [torqueCode, sharedNibbles, torqueHighByte, BitVec.toNat_ofNat]
  omega

theorem codes_give_bytes (b5 b6 b7 : Byte) :
    byteAt (velocityCode b5 b6) 0 = b5
      ∧ sharedNibbles (velocityCode b5 b6) (torqueCode b6 b7) = b6
      ∧ torqueHighByte (torqueCode b6 b7) = b7 := by
  have h5 := b5.isLt
  have h6 := b6.isLt
  have h7 := b7.isLt
  refine ⟨?_, ?_, ?_⟩ <;> apply BitVec.eq_of_toNat_eq <;>
    simp only [velocityCode, torqueCode, sharedNibbles, torqueHighByte, byteAt, BitVec.toNat_ofNat] <;> omega

@[simp] theorem rawFields_encRawReply (op : Byte) (r : RawReply) : rawFields (encRawReply op r) = r := rfl

/-- A raw reply's frame is rebuilt from its fields. -/
theorem encRawReply_rawFields (f : Frame) : encRawReply f.b0 (rawFields f) = f := rfl

@[simp] theorem wordAt_bytesLe32 (v : U32) (t : List Byte) : wordAt (bytesLe32 v ++ t) 0 = v := by
  simp [wordAt, bytesLe32]

@[simp] theorem length_rowToBytes (row : Row) : (rowToBytes row).length = 24 := rfl

@[simp] theorem length_rowsToBytes (rows : List Row) : (rowsToBytes rows).length = 24 * rows.length := by
  induction rows with
  | nil => rfl
  | cons r t ih => simp only [rowsToBytes, List.flatMap_cons, List.length_append] at ih ⊢; simp [ih]; omega

@[simp] theorem length_answerToBytes (seq : U32) (m : Byte) : (answerToBytes seq m).length = 5 := rfl

@[simp] theorem length_feedbackToBytes (fb : Feedback) : (feedbackToBytes fb).length = 28 := rfl

/-- Byte `k` of row `r` of an UPLOAD payload (R104). -/
theorem getD_rowsToBytes (rows : List Row) (r k : Nat) (hr : r < rows.length) (hk : k < 24) :
    (rowsToBytes rows).getD (24 * r + k) 0 = (rowToBytes rows[r]).getD k 0 := by
  induction rows generalizing r with
  | nil => simp at hr
  | cons x t ih =>
    rw [show rowsToBytes (x :: t) = rowToBytes x ++ rowsToBytes t by simp [rowsToBytes]]
    simp only [List.getD_eq_getElem?_getD] at ih ⊢
    cases r with
    | zero => rw [List.getElem?_append_left (by simpa using hk)]; simp
    | succ r =>
      rw [List.getElem?_append_right (by simp; omega),
        show 24 * (r + 1) + k - (rowToBytes x).length = 24 * r + k by simp; omega,
        ih r (by simpa using hr)]
      simp

/-- A row is read back from its own bytes (R104). -/
theorem rowAt_rowToBytes (row : Row) : rowAt (rowToBytes row) 0 = row := by
  cases row
  simp [rowAt, Six.tabulate, wordAt, rowToBytes, bytesLe32]

/-- `packetLength = p + OVERHEAD` bytes stand on the wire (R151). -/
theorem length_packetBytes (c : Config) (h : Header) (m : Byte) (pl : List Byte) :
    (packetBytes c h m pl).length = pl.length + c.overhead := by
  simp only [packetBytes, packetBody, endMarkerBytes, Config.overhead, Config.footerSize, headerSize]
  split <;> simp <;> omega

/-- Folding two runs one after the other is folding the whole (R232). -/
theorem crc32Fold_append (c : U32) (a b : List Byte) :
    crc32Fold c (a ++ b) = crc32Fold (crc32Fold c a) b := by
  induction a generalizing c with
  | nil => rfl
  | cons x t ih => exact ih _

end Sys2Proof
end

