-- ==== Sys2Proof/Laws/Config.lean ====
section
/-! SUPPORT. What a valid parameter set satisfies (R9), one fact per use. -/

namespace Sys2Proof

/-- The constraints of R9 as propositions. -/
theorem Config.valid_iff (c : Config) :
    c.valid = true ↔
      c.numAxes = 6 ∧ 12 ≤ c.rxCap ∧ c.rxCap < 2 ^ 32 ∧ 45 ≤ c.txCap ∧ c.txCap < 2 ^ 32
        ∧ c.overhead ≤ c.maxPacketSize ∧ c.maxPacketSize ≤ 2 ^ 32 - 1 ∧ 1 ≤ c.scratchWindow
        ∧ 1 ≤ c.trajRows ∧ c.msg.toList.Nodup ∧ c.op.toList.Nodup
        ∧ F32.lt c.posMin c.posMax = true ∧ F32.lt c.velMin c.velMax = true ∧ F32.lt c.curMin c.curMax = true
        ∧ F32.lt F32.posZero c.angleLimit = true ∧ F32.lt F32.posZero c.calStep = true
        ∧ F32.le (F32.div c.calStep F32.two) c.calTol = true
        ∧ 1 ≤ c.dwellTicks ∧ 1 ≤ c.debounceN
        ∧ c.canId.toList.Nodup ∧ 2 ≤ c.canTxqDepth ∧ c.pdDuration.toNat < 2 ^ 24 := by
  simp only [Config.valid, List.all_cons, List.all_nil, id, Bool.and_eq_true, beq_iff_eq, decide_eq_true_eq,
    and_true]

theorem Config.valid_ringCaps (c : Config) (h : c.valid = true) :
    12 ≤ c.rxCap ∧ c.rxCap < 2 ^ 32 ∧ 45 ≤ c.txCap ∧ c.txCap < 2 ^ 32 := by
  have := (Config.valid_iff c).1 h
  omega

theorem Config.valid_packetSizes (c : Config) (h : c.valid = true) :
    c.overhead ≤ c.maxPacketSize ∧ c.maxPacketSize < 2 ^ 32 ∧ 1 ≤ c.scratchWindow := by
  have := (Config.valid_iff c).1 h
  omega

theorem Config.valid_counts (c : Config) (h : c.valid = true) :
    1 ≤ c.trajRows ∧ 1 ≤ c.dwellTicks ∧ 1 ≤ c.debounceN ∧ 2 ≤ c.canTxqDepth := by
  have := (Config.valid_iff c).1 h
  omega

theorem Config.valid_messages (c : Config) (h : c.valid = true) : c.msg.toList.Nodup :=
  ((Config.valid_iff c).1 h).2.2.2.2.2.2.2.2.2.1

theorem Config.valid_opcodes (c : Config) (h : c.valid = true) : c.op.toList.Nodup :=
  ((Config.valid_iff c).1 h).2.2.2.2.2.2.2.2.2.2.1

theorem Config.valid_canIds (c : Config) (h : c.valid = true) : c.canId.toList.Nodup := by
  have := (Config.valid_iff c).1 h
  tauto

/-- OVERHEAD is 16 or 17 (R9, R154). -/
theorem Config.overhead_cases (c : Config) :
    (c.hasEndMarker = true ∧ c.footerSize = 5 ∧ c.overhead = 17)
      ∨ (c.hasEndMarker = false ∧ c.footerSize = 4 ∧ c.overhead = 16) := by
  cases h : c.hasEndMarker <;> simp [Config.overhead, Config.footerSize, headerSize, h]

end Sys2Proof
end

