-- ==== Sys2Proof/Laws/Decode.lean ====
section
/-! SUPPORT. What the decoder answers on a packet or a frame built by the layouts of 30_encoding.md. -/

namespace Sys2Proof

/-- Distinct message ids, each pair in both orders. -/
theorem Config.messages_ne (c : Config) (hv : c.valid = true) :
    c.msg.toList.Nodup ∧ c.msg.toList.reverse.Nodup :=
  ⟨c.valid_messages hv, List.nodup_reverse.2 (c.valid_messages hv)⟩

/-- Distinct opcodes, each pair in both orders. -/
theorem Config.opcodes_ne (c : Config) (hv : c.valid = true) :
    c.op.toList.Nodup ∧ c.op.toList.reverse.Nodup :=
  ⟨c.valid_opcodes hv, List.nodup_reverse.2 (c.valid_opcodes hv)⟩

theorem ite_ok {ε α : Type} {p : Prop} [Decidable p] {a b : Except ε α} (ha : ∃ i, a = .ok i) (hb : ∃ i, b = .ok i) :
    ∃ i, (if p then a else b) = .ok i := by
  split
  · exact ha
  · exact hb

/-- One link of a decoding chain taken apart. -/
theorem ite_eq_cases {α : Type} {p : Prop} [Decidable p] {a b x : α} (h : (if p then a else b) = x) :
    (p ∧ a = x) ∨ (¬ p ∧ b = x) := by
  by_cases hp : p
  · exact .inl ⟨hp, by rwa [if_pos hp] at h⟩
  · exact .inr ⟨hp, by rwa [if_neg hp] at h⟩

/-- A payload of an admitted size is some instruction (R161, R400). -/
theorem decodeMessage_of_sizeOk (c : Config) (h : Header) (m : Byte) (pl : List Byte)
    (hs : sizeOk c m pl.length = true) : ∃ i, decodeMessage c h m pl = .ok i := by
  unfold decodeMessage
  rw [if_neg (by rw [hs]; decide)]
  iterate 16 refine ite_ok ⟨_, rfl⟩ ?_
  exact ⟨_, rfl⟩

/-- A frame whose byte 0 is no opcode does not decode (R176). -/
theorem decodeFrame_reserved (c : Config) (id : CanId) (f : Frame) (h : f.b0 ∉ c.op.toList) :
    decodeFrame c id f = .error .unknownOpcode := by
  simp only [OpCodes.toList, List.mem_cons, List.not_mem_nil, or_false, not_or] at h
  obtain ⟨h1, h2, h3, h4, h5, h6, h7, h8, h9, h10, h11, h12, h13, h14, h15, h16⟩ := h
  simp only [decodeFrame, if_neg h1, if_neg h2, if_neg h3, if_neg h4, if_neg h5, if_neg h6, if_neg h7, if_neg h8,
    if_neg h9, if_neg h10, if_neg h11, if_neg h12, if_neg h13, if_neg h14, if_neg h15, if_neg h16]

/-- The footer of a packet has FOOTER_SIZE bytes (R154). -/
theorem length_footer (c : Config) (v : U32) : (bytesLe32 v ++ endMarkerBytes c).length = c.footerSize := by
  obtain ⟨a, b, -⟩ | ⟨a, b, -⟩ := Config.overhead_cases c <;> simp [endMarkerBytes, a, b]

/-- The checks after the header pass on a well-framed packet, and the bytes after it are left (R245, R246, R252). -/
theorem decodeAfterHeader_wellFramed (c : Config) (b12 : List Byte) (h : Header) (m : Byte) (pl rest : List Byte)
    (hv : c.valid = true) (hl : pl.length ≤ c.maxPayload) (hs : sizeOk c m pl.length = true) :
    decodeAfterHeader c b12 (u32 (pl.length + c.overhead)) h m
        (pl ++ (bytesLe32 (crc32 (b12 ++ pl)) ++ endMarkerBytes c ++ rest))
      = match decodeMessage c h m pl with
        | .ok i => .ok (i, rest)
        | .error e => .error e := by
  have hp := Config.valid_packetSizes c hv
  have hfl := length_footer c (crc32 (b12 ++ pl))
  simp only [Config.maxPayload] at hl
  have e1 : (u32 (pl.length + c.overhead)).toNat = pl.length + c.overhead := by
    simp only [u32, BitVec.toNat_ofNat]; exact Nat.mod_eq_of_lt (by omega)
  unfold decodeAfterHeader
  rw [e1, if_neg (by omega), Nat.add_sub_cancel, hs, if_neg (by simp),
    if_neg (by simp only [List.length_append] at hfl ⊢; omega), List.take_left, List.drop_left]
  have t3 : List.drop c.footerSize (bytesLe32 (crc32 (b12 ++ pl)) ++ endMarkerBytes c ++ rest) = rest := by
    rw [← hfl, List.drop_left]
  have t4 : wordAt (bytesLe32 (crc32 (b12 ++ pl)) ++ endMarkerBytes c ++ rest) 0 = crc32 (b12 ++ pl) := by
    rw [List.append_assoc]; exact wordAt_bytesLe32 _ _
  have t5 : ¬ (c.hasEndMarker = true
      ∧ (bytesLe32 (crc32 (b12 ++ pl)) ++ endMarkerBytes c ++ rest).getD 4 0 ≠ c.endMarker) := by
    rintro ⟨he, hn⟩
    exact hn (by simp [endMarkerBytes, he, bytesLe32])
  simp only [t3, t4]
  refine (if_neg (by simp)).trans ((if_neg t5).trans ?_)
  cases decodeMessage c h m pl <;> rfl

/-- A packet built by the layout of R150, at the head of any bytes, is read whole. -/
theorem decodePacket_packetBytes (c : Config) (h : Header) (m : Byte) (pl rest : List Byte) (hv : c.valid = true)
    (hl : pl.length ≤ c.maxPayload) (hs : sizeOk c m pl.length = true) :
    decodePacket c (packetBytes c h m pl ++ rest)
      = match decodeMessage c h m pl with
        | .ok i => .ok (i, rest)
        | .error e => .error e := by
  have e : packetBody c h m pl = ([c.startMarker] ++ bytesLe32 (u32 (pl.length + c.overhead))
      ++ bytesLe32 h.sequence ++ [h.fromId, h.toId, m]) ++ pl := by
    simp [packetBody]
  have key := decodeAfterHeader_wellFramed c ([c.startMarker] ++ bytesLe32 (u32 (pl.length + c.overhead))
      ++ bytesLe32 h.sequence ++ [h.fromId, h.toId, m]) h m pl rest hv hl hs
  simp only [packetBytes, e, bytesLe32, List.cons_append, List.nil_append, List.append_assoc, decodePacket, ne_eq,
    not_true_eq_false, if_false, le32_byteAt] at key ⊢
  exact key

end Sys2Proof
end

