-- ==== Sys2Proof/Laws/Memory.lean ====
section
/-! SUPPORT. The laws of byte storage: a read after a write, and that every operation keeps the canonical form
and the bounds. -/

namespace Sys2Proof.Machine

/-- The entries listed from `lo` on are above `lo`, so a read below it finds none. -/
theorem Memory.read_of_wfFrom (m : Memory) (lo a : Nat) (h : Memory.wfFrom lo m = true) (ha : a < lo) :
    Memory.read m a = Memory.unwritten := by
  induction m generalizing lo with
  | nil => rfl
  | cons c t ih =>
    obtain ⟨k, v⟩ := c
    simp only [Memory.wfFrom, Bool.and_eq_true, decide_eq_true_eq] at h
    rw [Memory.read, if_neg (by omega)]
    exact ih (k + 1) h.2 (by omega)

theorem Memory.wfFrom_mono (m : Memory) (lo lo' : Nat) (h : Memory.wfFrom lo m = true) (hle : lo' ≤ lo) :
    Memory.wfFrom lo' m = true := by
  cases m with
  | nil => rfl
  | cons c t =>
    obtain ⟨k, v⟩ := c
    simp only [Memory.wfFrom, Bool.and_eq_true, decide_eq_true_eq] at h ⊢
    exact ⟨⟨by omega, h.1.2⟩, h.2⟩

theorem Memory.read_insert (m : Memory) (a b : Nat) (v : Byte) :
    Memory.read (Memory.insert m a v) b = if a = b then v else Memory.read m b := by
  induction m with
  | nil => rfl
  | cons c t ih =>
    obtain ⟨k, w⟩ := c
    simp only [Memory.insert]
    split
    · simp [Memory.read]
    · split
      · subst_vars
        simp only [Memory.read]
        split <;> rfl
      · simp only [Memory.read, ih]
        split
        · rw [if_neg (by omega)]
        · rfl

theorem Memory.read_erase (m : Memory) (lo a b : Nat) (h : Memory.wfFrom lo m = true) :
    Memory.read (Memory.erase m a) b = if a = b then Memory.unwritten else Memory.read m b := by
  induction m generalizing lo with
  | nil => simp [Memory.erase, Memory.read]
  | cons c t ih =>
    obtain ⟨k, w⟩ := c
    simp only [Memory.wfFrom, Bool.and_eq_true, decide_eq_true_eq] at h
    simp only [Memory.erase]
    split
    · subst_vars
      simp only [Memory.read]
      split
      · subst_vars; exact Memory.read_of_wfFrom t _ _ h.2 (by omega)
      · rfl
    · simp only [Memory.read, ih (k + 1) h.2]
      split
      · rw [if_neg (by omega)]
      · rfl

/-- A byte after a write: the value written at its offset, and what was there everywhere else. -/
theorem Memory.read_write (m : Memory) (a b : Nat) (v : Byte) (h : Memory.wf m = true) :
    Memory.read (Memory.write m a v) b = if a = b then v else Memory.read m b := by
  unfold Memory.write
  split
  · subst_vars; exact Memory.read_erase m 0 a b h
  · exact Memory.read_insert m a b v

theorem Memory.wfFrom_insert (m : Memory) (lo a : Nat) (v : Byte) (h : Memory.wfFrom lo m = true)
    (ha : lo ≤ a) (hv : v ≠ Memory.unwritten) : Memory.wfFrom lo (Memory.insert m a v) = true := by
  induction m generalizing lo with
  | nil => simp [Memory.insert, Memory.wfFrom, ha, hv]
  | cons c t ih =>
    obtain ⟨k, w⟩ := c
    simp only [Memory.wfFrom, Bool.and_eq_true, decide_eq_true_eq] at h
    simp only [Memory.insert]
    split
    · simp only [Memory.wfFrom, Bool.and_eq_true, decide_eq_true_eq]
      exact ⟨⟨ha, hv⟩, ⟨by omega, h.1.2⟩, h.2⟩
    · split
      · subst_vars
        simp only [Memory.wfFrom, Bool.and_eq_true, decide_eq_true_eq]
        exact ⟨⟨ha, hv⟩, h.2⟩
      · simp only [Memory.wfFrom, Bool.and_eq_true, decide_eq_true_eq]
        exact ⟨h.1, ih (k + 1) h.2 (by omega)⟩

theorem Memory.wfFrom_erase (m : Memory) (lo a : Nat) (h : Memory.wfFrom lo m = true) :
    Memory.wfFrom lo (Memory.erase m a) = true := by
  induction m generalizing lo with
  | nil => rfl
  | cons c t ih =>
    obtain ⟨k, w⟩ := c
    simp only [Memory.wfFrom, Bool.and_eq_true, decide_eq_true_eq] at h
    simp only [Memory.erase]
    split
    · exact Memory.wfFrom_mono t (k + 1) lo h.2 (by omega)
    · simp only [Memory.wfFrom, Bool.and_eq_true, decide_eq_true_eq]
      exact ⟨h.1, ih (k + 1) h.2⟩

/-- A write keeps the canonical form. -/
theorem Memory.wf_write (m : Memory) (a : Nat) (v : Byte) (h : Memory.wf m = true) :
    Memory.wf (Memory.write m a v) = true := by
  unfold Memory.write
  split
  · exact Memory.wfFrom_erase m 0 a h
  · exact Memory.wfFrom_insert m 0 a v h (Nat.zero_le a) ‹_›

theorem Memory.within_insert (n : Nat) (m : Memory) (a : Nat) (v : Byte) (h : Memory.within n m = true)
    (ha : a < n) : Memory.within n (Memory.insert m a v) = true := by
  induction m with
  | nil => simp [Memory.insert, Memory.within, ha]
  | cons c t ih =>
    obtain ⟨k, w⟩ := c
    simp only [Memory.within, List.all_cons, Bool.and_eq_true, decide_eq_true_eq] at h ih
    simp only [Memory.insert]
    split
    · simp only [Memory.within, List.all_cons, Bool.and_eq_true, decide_eq_true_eq]
      exact ⟨ha, h⟩
    · split
      · simp only [Memory.within, List.all_cons, Bool.and_eq_true, decide_eq_true_eq]
        exact ⟨ha, h.2⟩
      · simp only [Memory.within, List.all_cons, Bool.and_eq_true, decide_eq_true_eq]
        exact ⟨h.1, ih h.2⟩

theorem Memory.within_erase (n : Nat) (m : Memory) (a : Nat) (h : Memory.within n m = true) :
    Memory.within n (Memory.erase m a) = true := by
  induction m with
  | nil => rfl
  | cons c t ih =>
    obtain ⟨k, w⟩ := c
    simp only [Memory.within, List.all_cons, Bool.and_eq_true, decide_eq_true_eq] at h ih
    simp only [Memory.erase]
    split
    · exact h.2
    · simp only [Memory.within, List.all_cons, Bool.and_eq_true, decide_eq_true_eq]
      exact ⟨h.1, ih h.2⟩

/-- A write inside the buffer keeps every entry inside it. -/
theorem Memory.within_write (n : Nat) (m : Memory) (a : Nat) (v : Byte) (h : Memory.within n m = true)
    (ha : a < n) : Memory.within n (Memory.write m a v) = true := by
  unfold Memory.write
  split
  · exact Memory.within_erase n m a h
  · exact Memory.within_insert n m a v h ha

theorem Memory.wf_writeBytes (m : Memory) (off : Nat) (bs : List Byte) (h : Memory.wf m = true) :
    Memory.wf (Memory.writeBytes m off bs) = true := by
  induction bs generalizing m off with
  | nil => exact h
  | cons b t ih => exact ih _ _ (Memory.wf_write m off b h)

theorem Memory.within_writeBytes (n : Nat) (m : Memory) (off : Nat) (bs : List Byte)
    (h : Memory.within n m = true) (hle : off + bs.length ≤ n) :
    Memory.within n (Memory.writeBytes m off bs) = true := by
  induction bs generalizing m off with
  | nil => exact h
  | cons b t ih =>
    simp only [List.length_cons] at hle
    exact ih _ _ (Memory.within_write n m off b h (by omega)) (by omega)

/-- A byte after a run of writes: the byte written at its offset, and what was there everywhere else. -/
theorem Memory.read_writeBytes (m : Memory) (off : Nat) (bs : List Byte) (a : Nat) (h : Memory.wf m = true) :
    Memory.read (Memory.writeBytes m off bs) a =
      if off ≤ a ∧ a < off + bs.length then bs.getD (a - off) 0 else Memory.read m a := by
  induction bs generalizing m off with
  | nil => simp [Memory.writeBytes]
  | cons b t ih =>
    rw [Memory.writeBytes, ih _ _ (Memory.wf_write m off b h), Memory.read_write m off a b h]
    simp only [List.length_cons]
    by_cases h1 : off = a
    · subst h1
      rw [if_neg (by omega), if_pos rfl, if_pos (by omega)]
      simp
    · by_cases h2 : off + 1 ≤ a ∧ a < off + 1 + t.length
      · rw [if_pos h2, if_pos (by omega)]
        obtain ⟨k, rfl⟩ : ∃ k, a = off + 1 + k := ⟨a - (off + 1), by omega⟩
        rw [show off + 1 + k - off = k + 1 by omega, show off + 1 + k - (off + 1) = k by omega]
        simp
      · rw [if_neg h2, if_neg h1, if_neg (by omega)]

@[simp] theorem Memory.length_readBytes (m : Memory) (off n : Nat) : (Memory.readBytes m off n).length = n := by
  induction n generalizing off with
  | zero => rfl
  | succ k ih => simp [Memory.readBytes, ih]

theorem Memory.getD_readBytes (m : Memory) (off n i : Nat) (h : i < n) :
    (Memory.readBytes m off n).getD i 0 = Memory.read m (off + i) := by
  induction n generalizing off i with
  | zero => omega
  | succ k ih =>
    cases i with
    | zero => simp [Memory.readBytes]
    | succ j =>
      rw [Memory.readBytes, List.getD_cons_succ, ih (off + 1) j (by omega)]
      congr 1; omega

/-- A read of the whole run just written gives it back. -/
theorem Memory.readBytes_writeBytes (m : Memory) (off : Nat) (bs : List Byte) (h : Memory.wf m = true) :
    Memory.readBytes (Memory.writeBytes m off bs) off bs.length = bs := by
  apply List.ext_getElem (by simp)
  intro i h1 h2
  have hd : (Memory.readBytes (Memory.writeBytes m off bs) off bs.length).getD i 0 = bs.getD i 0 := by
    rw [Memory.getD_readBytes _ _ _ _ h2, Memory.read_writeBytes m off bs _ h, if_pos (by omega)]
    congr 1; omega
  simpa [List.getD_eq_getElem?_getD, h1, h2] using hd

end Sys2Proof.Machine
end

