-- ==== Sys2Proof/Laws/Ring.lean ====
section
/-! SUPPORT. What each ring-buffer operation does to the content of a well-formed ring (R200-R204), and that it
keeps the ring well formed. -/

namespace Sys2Proof.Machine

theorem Ring.wf_iff (n : Nat) (r : Ring) :
    Ring.wf n r = true ↔
      r.count.toNat ≤ n ∧ r.head.toNat < n ∧ r.tail.toNat < n
        ∧ r.head.toNat = (r.tail.toNat + r.count.toNat) % n
        ∧ Memory.wf r.mem = true ∧ Memory.within n r.mem = true := by
  simp [Ring.wf, and_assoc]

theorem toNat_u32 (k : Nat) (h : k < 2 ^ 32) : (u32 k).toNat = k := by
  simp only [u32, BitVec.toNat_ofNat]
  exact Nat.mod_eq_of_lt h

@[simp] theorem Ring.length_content (n : Nat) (r : Ring) : (Ring.content n r).length = r.count.toNat := by
  simp [Ring.content]

/-- Positions less than a capacity apart fall on different offsets. -/
theorem mod_offsets_injective (n p i j : Nat) (hi : i < n) (hj : j < n) (h : (p + i) % n = (p + j) % n) :
    i = j := by
  have h1 : i % n = j % n := by
    have : p + i ≡ p + j [MOD n] := h
    exact Nat.ModEq.add_left_cancel' p this
  rwa [Nat.mod_eq_of_lt hi, Nat.mod_eq_of_lt hj] at h1

theorem Ring.wf_store (n : Nat) (m : Memory) (pos : Nat) (bs : List Byte) (h : Memory.wf m = true) :
    Memory.wf (Ring.store n m pos bs) = true := by
  induction bs generalizing m pos with
  | nil => exact h
  | cons b t ih => exact ih _ _ (Memory.wf_write m _ b h)

theorem Ring.within_store (n : Nat) (m : Memory) (pos : Nat) (bs : List Byte) (hn : 0 < n)
    (h : Memory.within n m = true) : Memory.within n (Ring.store n m pos bs) = true := by
  induction bs generalizing m pos with
  | nil => exact h
  | cons b t ih => exact ih _ _ (Memory.within_write n m _ b h (Nat.mod_lt _ hn))

/-- An offset that no byte of the run falls on reads as before. -/
theorem Ring.read_store_other (n : Nat) (m : Memory) (pos : Nat) (bs : List Byte) (a : Nat)
    (h : Memory.wf m = true) (ha : ∀ j, j < bs.length → a ≠ (pos + j) % n) :
    Memory.read (Ring.store n m pos bs) a = Memory.read m a := by
  induction bs generalizing m pos with
  | nil => rfl
  | cons b t ih =>
    rw [Ring.store, ih _ _ (Memory.wf_write m _ b h), Memory.read_write m _ a b h, if_neg]
    · intro e
      exact ha 0 (by simp) (by simpa using e.symm)
    · intro j hj
      have := ha (j + 1) (by simpa using hj)
      rwa [show pos + 1 + j = pos + (j + 1) by omega]

/-- Byte `j` of a run no longer than the capacity stands at its offset. -/
theorem Ring.read_store_at (n : Nat) (m : Memory) (pos : Nat) (bs : List Byte) (j : Nat)
    (h : Memory.wf m = true) (hlen : bs.length ≤ n) (hj : j < bs.length) :
    Memory.read (Ring.store n m pos bs) ((pos + j) % n) = bs.getD j 0 := by
  induction bs generalizing m pos j with
  | nil => simp at hj
  | cons b t ih =>
    simp only [List.length_cons] at hlen hj
    cases j with
    | zero =>
      rw [Ring.store, Ring.read_store_other, Memory.read_write m _ _ b h, if_pos (by simp)]
      · simp
      · exact Memory.wf_write m _ b h
      · intro k hk e
        have := mod_offsets_injective n pos 0 (k + 1) (by omega) (by omega)
          (by rwa [show pos + 1 + k = pos + (k + 1) by omega] at e)
        omega
    | succ k =>
      rw [Ring.store, show pos + (k + 1) = pos + 1 + k by omega,
        ih _ (pos + 1) k (Memory.wf_write m _ b h) (by omega) (by omega)]
      simp

/-- What `writeBytes` does (R204): the first `k` bytes are appended, `k` being what fits. -/
theorem Ring.appended_writeBytes (n : Nat) (r : Ring) (src : List Byte) (hn : n < 2 ^ 32)
    (h : Ring.wf n r = true) : Appended n r (Ring.writeBytes n r src).1 src := by
  obtain ⟨hc, hh, ht, -, hm, -⟩ := (Ring.wf_iff n r).1 h
  have hk : (src.take (min src.length (n - r.count.toNat))).length = min src.length (n - r.count.toNat) := by
    simp
  refine ⟨rfl, toNat_u32 _ (by simp only [Ring.free]; omega), toNat_u32 _ ?_, ?_, ?_⟩
  · exact lt_trans (Nat.mod_lt _ (by omega)) hn
  · intro j hj
    have := Ring.read_store_at n r.mem r.head.toNat (src.take (min src.length (n - r.count.toNat))) j hm
      (by omega) (by omega)
    refine this.trans ?_
    simp only [List.getD_eq_getElem?_getD]
    rw [List.getElem?_take_of_lt hj]
  · intro a ha
    refine Ring.read_store_other n r.mem r.head.toNat _ a hm fun j hj => ha j ?_
    simp only [Ring.free, List.length_take] at hj
    omega

theorem Ring.wf_writeBytes (n : Nat) (r : Ring) (src : List Byte) (hn : n < 2 ^ 32) (h : Ring.wf n r = true) :
    Ring.wf n (Ring.writeBytes n r src).1 = true := by
  obtain ⟨hc, hh, ht, he, hm, hw⟩ := (Ring.wf_iff n r).1 h
  obtain ⟨h1, h2, h3, -⟩ := Ring.appended_writeBytes n r src hn h
  refine (Ring.wf_iff n _).2 ⟨by omega, ?_, by rw [h1]; exact ht, ?_, Ring.wf_store n _ _ _ hm,
    Ring.within_store n _ _ _ (by omega) hw⟩
  · rw [h3]; exact Nat.mod_lt _ (by omega)
  · rw [h3, h1, h2, he, Nat.mod_add_mod, Nat.add_assoc]

/-- Nothing appended is nothing changed. -/
theorem Appended.refl (n : Nat) (r : Ring) (h : Ring.wf n r = true) : Appended n r r [] := by
  obtain ⟨-, hh, -⟩ := (Ring.wf_iff n r).1 h
  exact ⟨rfl, by simp, by simpa using (Nat.mod_eq_of_lt hh).symm, fun j hj => by simp at hj, fun _ _ => rfl⟩

/-- Two runs appended one after the other, each as far as it fits, are the one run appended as far as it fits. -/
theorem Appended.trans (n : Nat) (a b c : Ring) (xs ys : List Byte) (hxs : Appended n a b xs)
    (hys : Appended n b c ys) : Appended n a c (xs ++ ys) := by
  obtain ⟨t1, c1, h1, r1, o1⟩ := hxs
  obtain ⟨t2, c2, h2, r2, o2⟩ := hys
  simp only [Appended, List.length_append]
  rw [c1] at c2 r2 o2 h2
  generalize ek1 : min xs.length (n - a.count.toNat) = k1 at c1 h1 r1 o1 c2 r2 o2 h2
  generalize ek2 : min ys.length (n - (a.count.toNat + k1)) = k2 at c2 r2 o2 h2
  have ek : min (xs.length + ys.length) (n - a.count.toNat) = k1 + k2 := by omega
  rw [ek]
  have off (j : Nat) : (b.head.toNat + j) % n = (a.head.toNat + (k1 + j)) % n := by
    rw [h1, Nat.mod_add_mod, Nat.add_assoc]
  refine ⟨t2.trans t1, by omega, by rw [h2, off], fun j hj => ?_, fun x hx => ?_⟩
  · rcases Nat.lt_or_ge j k1 with hlt | hge
    · rw [o2 _ fun i hi e => by
        rw [off] at e
        have := mod_offsets_injective n a.head.toNat j (k1 + i) (by omega) (by omega) e
        omega, r1 j hlt]
      simp only [List.getD_eq_getElem?_getD]
      rw [List.getElem?_append_left (by omega)]
    · have := r2 (j - k1) (by omega)
      rw [off, Nat.add_sub_cancel' hge] at this
      rw [this]
      simp only [List.getD_eq_getElem?_getD]
      rw [List.getElem?_append_right (by omega), show j - xs.length = j - k1 by omega]
  · rw [o2 x fun j hj => by rw [off]; exact hx _ (by omega), o1 x fun j hj => hx j (by omega)]

/-- A ring to which bytes were appended holds its old content and then the bytes that fitted. -/
theorem Ring.content_appended (n : Nat) (r r' : Ring) (src : List Byte) (h : Ring.wf n r = true)
    (ha : Appended n r r' src) :
    Ring.content n r' = Ring.content n r ++ src.take (n - r.count.toNat) := by
  obtain ⟨hc, hh, ht, he, hm, hw⟩ := (Ring.wf_iff n r).1 h
  obtain ⟨h1, h2, h3, h4, h5⟩ := ha
  apply List.ext_getElem
  · simp [h2]; omega
  intro i hi1 hi2
  simp only [Ring.length_content, h2] at hi1
  simp only [Ring.content, List.getElem_map, List.getElem_range, Ring.peek, h1, List.getElem_append,
    List.length_map, List.length_range]
  split
  · rename_i hlt
    apply h5
    intro j hj e
    rw [he, Nat.mod_add_mod, Nat.add_assoc] at e
    have := mod_offsets_injective n r.tail.toNat i (r.count.toNat + j) (by omega) (by omega) e
    omega
  · rename_i hge
    have hj : i - r.count.toNat < min src.length (n - r.count.toNat) := by omega
    have := h4 (i - r.count.toNat) hj
    rw [he, Nat.mod_add_mod, Nat.add_assoc, Nat.add_sub_cancel' (by omega)] at this
    rw [this, List.getElem_take]
    rw [List.getD_eq_getElem?_getD, List.getElem?_eq_getElem (by omega)]
    rfl

/-- The whole of `writeBytes` in terms of content (R204). -/
theorem Ring.content_writeBytes (n : Nat) (r : Ring) (src : List Byte) (hn : n < 2 ^ 32)
    (h : Ring.wf n r = true) :
    Ring.content n (Ring.writeBytes n r src).1 = Ring.content n r ++ src.take (n - r.count.toNat) :=
  Ring.content_appended n r _ src h (Ring.appended_writeBytes n r src hn h)

/-- What `readBytes` returns (R203): the first bytes of the content. -/
theorem Ring.readBytes_fst (n : Nat) (r : Ring) (want : Nat) :
    (Ring.readBytes n r want).1 = (Ring.content n r).take want := by
  simp only [Ring.readBytes, Ring.content, ← List.map_take, List.take_range]

/-- What `readBytes` leaves (R203): the rest of the content. -/
theorem Ring.content_readBytes (n : Nat) (r : Ring) (want : Nat) (hn : n < 2 ^ 32) (h : Ring.wf n r = true) :
    Ring.content n (Ring.readBytes n r want).2 = (Ring.content n r).drop want := by
  obtain ⟨hc, hh, ht, he, hm, hw⟩ := (Ring.wf_iff n r).1 h
  have hcount : (Ring.readBytes n r want).2.count.toNat = r.count.toNat - min want r.count.toNat :=
    toNat_u32 _ (by omega)
  have htail : (Ring.readBytes n r want).2.tail.toNat = (r.tail.toNat + min want r.count.toNat) % n :=
    toNat_u32 _ (lt_trans (Nat.mod_lt _ (by omega)) hn)
  apply List.ext_getElem
  · simp [hcount]; omega
  intro i hi1 hi2
  simp only [Ring.length_content, hcount] at hi1
  simp only [Ring.content, List.getElem_map, List.getElem_range, Ring.peek, htail, List.getElem_drop]
  change Memory.read r.mem _ = _
  rw [Nat.mod_add_mod, Nat.add_assoc, Nat.min_eq_left (by omega)]

theorem Ring.wf_readBytes (n : Nat) (r : Ring) (want : Nat) (hn : n < 2 ^ 32) (h : Ring.wf n r = true) :
    Ring.wf n (Ring.readBytes n r want).2 = true := by
  obtain ⟨hc, hh, ht, he, hm, hw⟩ := (Ring.wf_iff n r).1 h
  have hcount : (Ring.readBytes n r want).2.count.toNat = r.count.toNat - min want r.count.toNat :=
    toNat_u32 _ (by omega)
  have htail : (Ring.readBytes n r want).2.tail.toNat = (r.tail.toNat + min want r.count.toNat) % n :=
    toNat_u32 _ (lt_trans (Nat.mod_lt _ (by omega)) hn)
  refine (Ring.wf_iff n _).2 ⟨by omega, hh, by rw [htail]; exact Nat.mod_lt _ (by omega), ?_, hm, hw⟩
  rw [hcount, htail, Nat.mod_add_mod, Nat.add_assoc, Nat.add_sub_cancel' (by omega)]
  exact he

/-- `pop` (R202) takes the oldest byte; it answers none exactly on an empty ring. -/
theorem Ring.pop_cases (n : Nat) (r : Ring) (hn : n < 2 ^ 32) (h : Ring.wf n r = true) :
    (Ring.pop n r = none ∧ Ring.content n r = [])
      ∨ ∃ b r', Ring.pop n r = some (b, r') ∧ Ring.wf n r' = true
          ∧ Ring.content n r = b :: Ring.content n r' ∧ r.count.toNat = r'.count.toNat + 1 := by
  obtain ⟨hc, hh, ht, he, hm, hw⟩ := (Ring.wf_iff n r).1 h
  by_cases h0 : r.count = 0
  · left
    simp [Ring.pop, h0, Ring.content]
  · right
    have hpos : 0 < r.count.toNat := by
      rcases Nat.eq_zero_or_pos r.count.toNat with e | e
      · exact absurd (BitVec.eq_of_toNat_eq (by simpa using e)) h0
      · exact e
    have hr : Ring.readBytes n r 1 = ([Ring.peek n r 0],
        { r with tail := u32 ((r.tail.toNat + 1) % n), count := r.count - 1 }) := by
      have h1 : min 1 r.count.toNat = 1 := by omega
      have h2 : u32 (r.count.toNat - 1) = r.count - 1 := by
        apply BitVec.eq_of_toNat_eq
        have := r.count.isLt
        have e1 : (1 : U32).toNat = 1 := rfl
        rw [toNat_u32 _ (by omega), BitVec.toNat_sub, e1]
        omega
      simp [Ring.readBytes, h1, h2]
    refine ⟨Ring.peek n r 0, { r with tail := u32 ((r.tail.toNat + 1) % n), count := r.count - 1 },
      by simp only [Ring.pop, if_neg h0], ?_, ?_, ?_⟩
    · have := Ring.wf_readBytes n r 1 hn h
      rwa [hr] at this
    · have h1 := Ring.readBytes_fst n r 1
      have h2 := Ring.content_readBytes n r 1 hn h
      rw [hr] at h1 h2
      simp only at h1 h2
      rw [h2]
      have := (List.take_append_drop 1 (Ring.content n r)).symm
      rw [← h1] at this
      simpa using this
    · have := r.count.isLt
      have e1 : (1 : U32).toNat = 1 := rfl
      simp only [BitVec.toNat_sub, e1]
      omega

end Sys2Proof.Machine
end

