-- ==== Sys2Proof/Laws/Six.lean ====
section
/-! SUPPORT. The small lemmas of `Six`. -/

namespace Sys2Proof

variable {α β : Type}

@[simp] theorem Six.get_set_self (v : Six α) (i : Fin 6) (a : α) : (v.set i a).get i = a := by
  fin_cases i <;> rfl

theorem Six.get_set_ne (v : Six α) (i j : Fin 6) (a : α) (h : j ≠ i) : (v.set i a).get j = v.get j := by
  fin_cases i <;> fin_cases j <;> first | rfl | exact absurd rfl h

theorem Six.get_set (v : Six α) (i j : Fin 6) (a : α) :
    (v.set i a).get j = if j = i then a else v.get j := by
  by_cases h : j = i
  · subst h; simp
  · simp [h, Six.get_set_ne]

@[simp] theorem Six.get_map (f : α → β) (v : Six α) (i : Fin 6) : (v.map f).get i = f (v.get i) := by
  fin_cases i <;> rfl

@[simp] theorem Six.get_tabulate (f : Fin 6 → α) (i : Fin 6) : (Six.tabulate f).get i = f i := by
  fin_cases i <;> rfl

@[simp] theorem Six.get_mapIdx (f : Fin 6 → α → β) (v : Six α) (i : Fin 6) :
    (v.mapIdx f).get i = f i (v.get i) := by
  fin_cases i <;> rfl

@[simp] theorem Six.get_replicate (a : α) (i : Fin 6) : (Six.replicate a).get i = a := by
  fin_cases i <;> rfl

theorem Six.ext_get (v w : Six α) (h : ∀ i, v.get i = w.get i) : v = w := by
  cases v; cases w
  simp only [Six.mk.injEq]
  exact ⟨h 0, h 1, h 2, h 3, h 4, h 5⟩

theorem Six.set_get_self (v : Six α) (i : Fin 6) : v.set i (v.get i) = v := by
  fin_cases i <;> rfl

theorem Six.set_set (v : Six α) (i : Fin 6) (a b : α) : (v.set i a).set i b = v.set i b := by
  fin_cases i <;> rfl

end Sys2Proof
end

