-- ==== Sys2Proof/Laws/State.lean ====
section
/-! SUPPORT. One lemma per field per named update of the state. -/

namespace Sys2Proof.Machine

@[simp] theorem modifyAxis_cfg (s : State) (i : Fin 6) (f : Axis → Axis) : (s.modifyAxis i f).cfg = s.cfg := rfl
@[simp] theorem mapAxes_cfg (s : State) (f : Axis → Axis) : (s.mapAxes f).cfg = s.cfg := rfl
@[simp] theorem mapAxesIdx_cfg (s : State) (f : Fin 6 → Axis → Axis) : (s.mapAxesIdx f).cfg = s.cfg := rfl
@[simp] theorem applyRow_cfg (row : Row) (s : State) : (applyRow row s).cfg = s.cfg := rfl
@[simp] theorem modifyAxis_pending (s : State) (i : Fin 6) (f : Axis → Axis) : (s.modifyAxis i f).pending = s.pending := rfl
@[simp] theorem mapAxes_pending (s : State) (f : Axis → Axis) : (s.mapAxes f).pending = s.pending := rfl
@[simp] theorem mapAxesIdx_pending (s : State) (f : Fin 6 → Axis → Axis) : (s.mapAxesIdx f).pending = s.pending := rfl
@[simp] theorem applyRow_pending (row : Row) (s : State) : (applyRow row s).pending = s.pending := rfl
@[simp] theorem modifyAxis_rxIn (s : State) (i : Fin 6) (f : Axis → Axis) : (s.modifyAxis i f).rxIn = s.rxIn := rfl
@[simp] theorem mapAxes_rxIn (s : State) (f : Axis → Axis) : (s.mapAxes f).rxIn = s.rxIn := rfl
@[simp] theorem mapAxesIdx_rxIn (s : State) (f : Fin 6 → Axis → Axis) : (s.mapAxesIdx f).rxIn = s.rxIn := rfl
@[simp] theorem applyRow_rxIn (row : Row) (s : State) : (applyRow row s).rxIn = s.rxIn := rfl
@[simp] theorem modifyAxis_txOut (s : State) (i : Fin 6) (f : Axis → Axis) : (s.modifyAxis i f).txOut = s.txOut := rfl
@[simp] theorem mapAxes_txOut (s : State) (f : Axis → Axis) : (s.mapAxes f).txOut = s.txOut := rfl
@[simp] theorem mapAxesIdx_txOut (s : State) (f : Fin 6 → Axis → Axis) : (s.mapAxesIdx f).txOut = s.txOut := rfl
@[simp] theorem applyRow_txOut (row : Row) (s : State) : (applyRow row s).txOut = s.txOut := rfl
@[simp] theorem modifyAxis_canOut (s : State) (i : Fin 6) (f : Axis → Axis) : (s.modifyAxis i f).canOut = s.canOut := rfl
@[simp] theorem mapAxes_canOut (s : State) (f : Axis → Axis) : (s.mapAxes f).canOut = s.canOut := rfl
@[simp] theorem mapAxesIdx_canOut (s : State) (f : Fin 6 → Axis → Axis) : (s.mapAxesIdx f).canOut = s.canOut := rfl
@[simp] theorem applyRow_canOut (row : Row) (s : State) : (applyRow row s).canOut = s.canOut := rfl
@[simp] theorem modifyAxis_slot (s : State) (i : Fin 6) (f : Axis → Axis) : (s.modifyAxis i f).slot = s.slot := rfl
@[simp] theorem mapAxes_slot (s : State) (f : Axis → Axis) : (s.mapAxes f).slot = s.slot := rfl
@[simp] theorem mapAxesIdx_slot (s : State) (f : Fin 6 → Axis → Axis) : (s.mapAxesIdx f).slot = s.slot := rfl
@[simp] theorem applyRow_slot (row : Row) (s : State) : (applyRow row s).slot = s.slot := rfl
@[simp] theorem modifyAxis_rx (s : State) (i : Fin 6) (f : Axis → Axis) : (s.modifyAxis i f).rx = s.rx := rfl
@[simp] theorem mapAxes_rx (s : State) (f : Axis → Axis) : (s.mapAxes f).rx = s.rx := rfl
@[simp] theorem mapAxesIdx_rx (s : State) (f : Fin 6 → Axis → Axis) : (s.mapAxesIdx f).rx = s.rx := rfl
@[simp] theorem applyRow_rx (row : Row) (s : State) : (applyRow row s).rx = s.rx := rfl
@[simp] theorem modifyAxis_pstate (s : State) (i : Fin 6) (f : Axis → Axis) : (s.modifyAxis i f).pstate = s.pstate := rfl
@[simp] theorem mapAxes_pstate (s : State) (f : Axis → Axis) : (s.mapAxes f).pstate = s.pstate := rfl
@[simp] theorem mapAxesIdx_pstate (s : State) (f : Fin 6 → Axis → Axis) : (s.mapAxesIdx f).pstate = s.pstate := rfl
@[simp] theorem applyRow_pstate (row : Row) (s : State) : (applyRow row s).pstate = s.pstate := rfl
@[simp] theorem modifyAxis_crc (s : State) (i : Fin 6) (f : Axis → Axis) : (s.modifyAxis i f).crc = s.crc := rfl
@[simp] theorem mapAxes_crc (s : State) (f : Axis → Axis) : (s.mapAxes f).crc = s.crc := rfl
@[simp] theorem mapAxesIdx_crc (s : State) (f : Fin 6 → Axis → Axis) : (s.mapAxesIdx f).crc = s.crc := rfl
@[simp] theorem applyRow_crc (row : Row) (s : State) : (applyRow row s).crc = s.crc := rfl
@[simp] theorem modifyAxis_payloadRead (s : State) (i : Fin 6) (f : Axis → Axis) : (s.modifyAxis i f).payloadRead = s.payloadRead := rfl
@[simp] theorem mapAxes_payloadRead (s : State) (f : Axis → Axis) : (s.mapAxes f).payloadRead = s.payloadRead := rfl
@[simp] theorem mapAxesIdx_payloadRead (s : State) (f : Fin 6 → Axis → Axis) : (s.mapAxesIdx f).payloadRead = s.payloadRead := rfl
@[simp] theorem applyRow_payloadRead (row : Row) (s : State) : (applyRow row s).payloadRead = s.payloadRead := rfl
@[simp] theorem modifyAxis_pb (s : State) (i : Fin 6) (f : Axis → Axis) : (s.modifyAxis i f).pb = s.pb := rfl
@[simp] theorem mapAxes_pb (s : State) (f : Axis → Axis) : (s.mapAxes f).pb = s.pb := rfl
@[simp] theorem mapAxesIdx_pb (s : State) (f : Fin 6 → Axis → Axis) : (s.mapAxesIdx f).pb = s.pb := rfl
@[simp] theorem applyRow_pb (row : Row) (s : State) : (applyRow row s).pb = s.pb := rfl
@[simp] theorem modifyAxis_info (s : State) (i : Fin 6) (f : Axis → Axis) : (s.modifyAxis i f).info = s.info := rfl
@[simp] theorem mapAxes_info (s : State) (f : Axis → Axis) : (s.mapAxes f).info = s.info := rfl
@[simp] theorem mapAxesIdx_info (s : State) (f : Fin 6 → Axis → Axis) : (s.mapAxesIdx f).info = s.info := rfl
@[simp] theorem applyRow_info (row : Row) (s : State) : (applyRow row s).info = s.info := rfl
@[simp] theorem modifyAxis_playing (s : State) (i : Fin 6) (f : Axis → Axis) : (s.modifyAxis i f).playing = s.playing := rfl
@[simp] theorem mapAxes_playing (s : State) (f : Axis → Axis) : (s.mapAxes f).playing = s.playing := rfl
@[simp] theorem mapAxesIdx_playing (s : State) (f : Fin 6 → Axis → Axis) : (s.mapAxesIdx f).playing = s.playing := rfl
@[simp] theorem applyRow_playing (row : Row) (s : State) : (applyRow row s).playing = s.playing := rfl
@[simp] theorem modifyAxis_traj (s : State) (i : Fin 6) (f : Axis → Axis) : (s.modifyAxis i f).traj = s.traj := rfl
@[simp] theorem mapAxes_traj (s : State) (f : Axis → Axis) : (s.mapAxes f).traj = s.traj := rfl
@[simp] theorem mapAxesIdx_traj (s : State) (f : Fin 6 → Axis → Axis) : (s.mapAxesIdx f).traj = s.traj := rfl
@[simp] theorem applyRow_traj (row : Row) (s : State) : (applyRow row s).traj = s.traj := rfl
@[simp] theorem modifyAxis_arrayLength (s : State) (i : Fin 6) (f : Axis → Axis) : (s.modifyAxis i f).arrayLength = s.arrayLength := rfl
@[simp] theorem mapAxes_arrayLength (s : State) (f : Axis → Axis) : (s.mapAxes f).arrayLength = s.arrayLength := rfl
@[simp] theorem mapAxesIdx_arrayLength (s : State) (f : Fin 6 → Axis → Axis) : (s.mapAxesIdx f).arrayLength = s.arrayLength := rfl
@[simp] theorem applyRow_arrayLength (row : Row) (s : State) : (applyRow row s).arrayLength = s.arrayLength := rfl
@[simp] theorem modifyAxis_trajIndex (s : State) (i : Fin 6) (f : Axis → Axis) : (s.modifyAxis i f).trajIndex = s.trajIndex := rfl
@[simp] theorem mapAxes_trajIndex (s : State) (f : Axis → Axis) : (s.mapAxes f).trajIndex = s.trajIndex := rfl
@[simp] theorem mapAxesIdx_trajIndex (s : State) (f : Fin 6 → Axis → Axis) : (s.mapAxesIdx f).trajIndex = s.trajIndex := rfl
@[simp] theorem applyRow_trajIndex (row : Row) (s : State) : (applyRow row s).trajIndex = s.trajIndex := rfl
@[simp] theorem modifyAxis_tx (s : State) (i : Fin 6) (f : Axis → Axis) : (s.modifyAxis i f).tx = s.tx := rfl
@[simp] theorem mapAxes_tx (s : State) (f : Axis → Axis) : (s.mapAxes f).tx = s.tx := rfl
@[simp] theorem mapAxesIdx_tx (s : State) (f : Fin 6 → Axis → Axis) : (s.mapAxesIdx f).tx = s.tx := rfl
@[simp] theorem applyRow_tx (row : Row) (s : State) : (applyRow row s).tx = s.tx := rfl
@[simp] theorem modifyAxis_txSeq (s : State) (i : Fin 6) (f : Axis → Axis) : (s.modifyAxis i f).txSeq = s.txSeq := rfl
@[simp] theorem mapAxes_txSeq (s : State) (f : Axis → Axis) : (s.mapAxes f).txSeq = s.txSeq := rfl
@[simp] theorem mapAxesIdx_txSeq (s : State) (f : Fin 6 → Axis → Axis) : (s.mapAxesIdx f).txSeq = s.txSeq := rfl
@[simp] theorem applyRow_txSeq (row : Row) (s : State) : (applyRow row s).txSeq = s.txSeq := rfl
@[simp] theorem modifyAxis_tickCount (s : State) (i : Fin 6) (f : Axis → Axis) : (s.modifyAxis i f).tickCount = s.tickCount := rfl
@[simp] theorem mapAxes_tickCount (s : State) (f : Axis → Axis) : (s.mapAxes f).tickCount = s.tickCount := rfl
@[simp] theorem mapAxesIdx_tickCount (s : State) (f : Fin 6 → Axis → Axis) : (s.mapAxesIdx f).tickCount = s.tickCount := rfl
@[simp] theorem applyRow_tickCount (row : Row) (s : State) : (applyRow row s).tickCount = s.tickCount := rfl
@[simp] theorem modifyAxis_counters (s : State) (i : Fin 6) (f : Axis → Axis) : (s.modifyAxis i f).counters = s.counters := rfl
@[simp] theorem mapAxes_counters (s : State) (f : Axis → Axis) : (s.mapAxes f).counters = s.counters := rfl
@[simp] theorem mapAxesIdx_counters (s : State) (f : Fin 6 → Axis → Axis) : (s.mapAxesIdx f).counters = s.counters := rfl
@[simp] theorem applyRow_counters (row : Row) (s : State) : (applyRow row s).counters = s.counters := rfl
@[simp] theorem raise_cfg (c : Condition) (s : State) : (raise c s).cfg = s.cfg := by cases c <;> rfl
@[simp] theorem raise_pending (c : Condition) (s : State) : (raise c s).pending = s.pending := by cases c <;> rfl
@[simp] theorem raise_rxIn (c : Condition) (s : State) : (raise c s).rxIn = s.rxIn := by cases c <;> rfl
@[simp] theorem raise_txOut (c : Condition) (s : State) : (raise c s).txOut = s.txOut := by cases c <;> rfl
@[simp] theorem raise_canOut (c : Condition) (s : State) : (raise c s).canOut = s.canOut := by cases c <;> rfl
@[simp] theorem raise_slot (c : Condition) (s : State) : (raise c s).slot = s.slot := by cases c <;> rfl
@[simp] theorem raise_rx (c : Condition) (s : State) : (raise c s).rx = s.rx := by cases c <;> rfl
@[simp] theorem raise_pstate (c : Condition) (s : State) : (raise c s).pstate = s.pstate := by cases c <;> rfl
@[simp] theorem raise_crc (c : Condition) (s : State) : (raise c s).crc = s.crc := by cases c <;> rfl
@[simp] theorem raise_payloadRead (c : Condition) (s : State) : (raise c s).payloadRead = s.payloadRead := by cases c <;> rfl
@[simp] theorem raise_pb (c : Condition) (s : State) : (raise c s).pb = s.pb := by cases c <;> rfl
@[simp] theorem raise_info (c : Condition) (s : State) : (raise c s).info = s.info := by cases c <;> rfl
@[simp] theorem raise_playing (c : Condition) (s : State) : (raise c s).playing = s.playing := by cases c <;> rfl
@[simp] theorem raise_traj (c : Condition) (s : State) : (raise c s).traj = s.traj := by cases c <;> rfl
@[simp] theorem raise_arrayLength (c : Condition) (s : State) : (raise c s).arrayLength = s.arrayLength := by cases c <;> rfl
@[simp] theorem raise_trajIndex (c : Condition) (s : State) : (raise c s).trajIndex = s.trajIndex := by cases c <;> rfl
@[simp] theorem raise_tx (c : Condition) (s : State) : (raise c s).tx = s.tx := by cases c <;> rfl
@[simp] theorem raise_txSeq (c : Condition) (s : State) : (raise c s).txSeq = s.txSeq := by cases c <;> rfl
@[simp] theorem raise_tickCount (c : Condition) (s : State) : (raise c s).tickCount = s.tickCount := by cases c <;> rfl
@[simp] theorem sendPacket_cfg (m toId : Byte) (pl : List Byte) (s : State) :
    (sendPacket m toId pl s).cfg = s.cfg := by
  simp only [sendPacket]; split <;> rfl
@[simp] theorem sendAck_cfg (h : Header) (m : Byte) (s : State) : (sendAck h m s).cfg = s.cfg :=
  sendPacket_cfg ..
@[simp] theorem sendNak_cfg (h : Header) (m : Byte) (s : State) : (sendNak h m s).cfg = s.cfg :=
  sendPacket_cfg ..
@[simp] theorem sendPacket_pending (m toId : Byte) (pl : List Byte) (s : State) :
    (sendPacket m toId pl s).pending = s.pending := by
  simp only [sendPacket]; split <;> rfl
@[simp] theorem sendAck_pending (h : Header) (m : Byte) (s : State) : (sendAck h m s).pending = s.pending :=
  sendPacket_pending ..
@[simp] theorem sendNak_pending (h : Header) (m : Byte) (s : State) : (sendNak h m s).pending = s.pending :=
  sendPacket_pending ..
@[simp] theorem sendPacket_rxIn (m toId : Byte) (pl : List Byte) (s : State) :
    (sendPacket m toId pl s).rxIn = s.rxIn := by
  simp only [sendPacket]; split <;> rfl
@[simp] theorem sendAck_rxIn (h : Header) (m : Byte) (s : State) : (sendAck h m s).rxIn = s.rxIn :=
  sendPacket_rxIn ..
@[simp] theorem sendNak_rxIn (h : Header) (m : Byte) (s : State) : (sendNak h m s).rxIn = s.rxIn :=
  sendPacket_rxIn ..
@[simp] theorem sendPacket_txOut (m toId : Byte) (pl : List Byte) (s : State) :
    (sendPacket m toId pl s).txOut = s.txOut := by
  simp only [sendPacket]; split <;> rfl
@[simp] theorem sendAck_txOut (h : Header) (m : Byte) (s : State) : (sendAck h m s).txOut = s.txOut :=
  sendPacket_txOut ..
@[simp] theorem sendNak_txOut (h : Header) (m : Byte) (s : State) : (sendNak h m s).txOut = s.txOut :=
  sendPacket_txOut ..
@[simp] theorem sendPacket_canOut (m toId : Byte) (pl : List Byte) (s : State) :
    (sendPacket m toId pl s).canOut = s.canOut := by
  simp only [sendPacket]; split <;> rfl
@[simp] theorem sendAck_canOut (h : Header) (m : Byte) (s : State) : (sendAck h m s).canOut = s.canOut :=
  sendPacket_canOut ..
@[simp] theorem sendNak_canOut (h : Header) (m : Byte) (s : State) : (sendNak h m s).canOut = s.canOut :=
  sendPacket_canOut ..
@[simp] theorem sendPacket_slot (m toId : Byte) (pl : List Byte) (s : State) :
    (sendPacket m toId pl s).slot = s.slot := by
  simp only [sendPacket]; split <;> rfl
@[simp] theorem sendAck_slot (h : Header) (m : Byte) (s : State) : (sendAck h m s).slot = s.slot :=
  sendPacket_slot ..
@[simp] theorem sendNak_slot (h : Header) (m : Byte) (s : State) : (sendNak h m s).slot = s.slot :=
  sendPacket_slot ..
@[simp] theorem sendPacket_rx (m toId : Byte) (pl : List Byte) (s : State) :
    (sendPacket m toId pl s).rx = s.rx := by
  simp only [sendPacket]; split <;> rfl
@[simp] theorem sendAck_rx (h : Header) (m : Byte) (s : State) : (sendAck h m s).rx = s.rx :=
  sendPacket_rx ..
@[simp] theorem sendNak_rx (h : Header) (m : Byte) (s : State) : (sendNak h m s).rx = s.rx :=
  sendPacket_rx ..
@[simp] theorem sendPacket_pstate (m toId : Byte) (pl : List Byte) (s : State) :
    (sendPacket m toId pl s).pstate = s.pstate := by
  simp only [sendPacket]; split <;> rfl
@[simp] theorem sendAck_pstate (h : Header) (m : Byte) (s : State) : (sendAck h m s).pstate = s.pstate :=
  sendPacket_pstate ..
@[simp] theorem sendNak_pstate (h : Header) (m : Byte) (s : State) : (sendNak h m s).pstate = s.pstate :=
  sendPacket_pstate ..
@[simp] theorem sendPacket_crc (m toId : Byte) (pl : List Byte) (s : State) :
    (sendPacket m toId pl s).crc = s.crc := by
  simp only [sendPacket]; split <;> rfl
@[simp] theorem sendAck_crc (h : Header) (m : Byte) (s : State) : (sendAck h m s).crc = s.crc :=
  sendPacket_crc ..
@[simp] theorem sendNak_crc (h : Header) (m : Byte) (s : State) : (sendNak h m s).crc = s.crc :=
  sendPacket_crc ..
@[simp] theorem sendPacket_payloadRead (m toId : Byte) (pl : List Byte) (s : State) :
    (sendPacket m toId pl s).payloadRead = s.payloadRead := by
  simp only [sendPacket]; split <;> rfl
@[simp] theorem sendAck_payloadRead (h : Header) (m : Byte) (s : State) : (sendAck h m s).payloadRead = s.payloadRead :=
  sendPacket_payloadRead ..
@[simp] theorem sendNak_payloadRead (h : Header) (m : Byte) (s : State) : (sendNak h m s).payloadRead = s.payloadRead :=
  sendPacket_payloadRead ..
@[simp] theorem sendPacket_pb (m toId : Byte) (pl : List Byte) (s : State) :
    (sendPacket m toId pl s).pb = s.pb := by
  simp only [sendPacket]; split <;> rfl
@[simp] theorem sendAck_pb (h : Header) (m : Byte) (s : State) : (sendAck h m s).pb = s.pb :=
  sendPacket_pb ..
@[simp] theorem sendNak_pb (h : Header) (m : Byte) (s : State) : (sendNak h m s).pb = s.pb :=
  sendPacket_pb ..
@[simp] theorem sendPacket_info (m toId : Byte) (pl : List Byte) (s : State) :
    (sendPacket m toId pl s).info = s.info := by
  simp only [sendPacket]; split <;> rfl
@[simp] theorem sendAck_info (h : Header) (m : Byte) (s : State) : (sendAck h m s).info = s.info :=
  sendPacket_info ..
@[simp] theorem sendNak_info (h : Header) (m : Byte) (s : State) : (sendNak h m s).info = s.info :=
  sendPacket_info ..
@[simp] theorem sendPacket_playing (m toId : Byte) (pl : List Byte) (s : State) :
    (sendPacket m toId pl s).playing = s.playing := by
  simp only [sendPacket]; split <;> rfl
@[simp] theorem sendAck_playing (h : Header) (m : Byte) (s : State) : (sendAck h m s).playing = s.playing :=
  sendPacket_playing ..
@[simp] theorem sendNak_playing (h : Header) (m : Byte) (s : State) : (sendNak h m s).playing = s.playing :=
  sendPacket_playing ..
@[simp] theorem sendPacket_traj (m toId : Byte) (pl : List Byte) (s : State) :
    (sendPacket m toId pl s).traj = s.traj := by
  simp only [sendPacket]; split <;> rfl
@[simp] theorem sendAck_traj (h : Header) (m : Byte) (s : State) : (sendAck h m s).traj = s.traj :=
  sendPacket_traj ..
@[simp] theorem sendNak_traj (h : Header) (m : Byte) (s : State) : (sendNak h m s).traj = s.traj :=
  sendPacket_traj ..
@[simp] theorem sendPacket_arrayLength (m toId : Byte) (pl : List Byte) (s : State) :
    (sendPacket m toId pl s).arrayLength = s.arrayLength := by
  simp only [sendPacket]; split <;> rfl
@[simp] theorem sendAck_arrayLength (h : Header) (m : Byte) (s : State) : (sendAck h m s).arrayLength = s.arrayLength :=
  sendPacket_arrayLength ..
@[simp] theorem sendNak_arrayLength (h : Header) (m : Byte) (s : State) : (sendNak h m s).arrayLength = s.arrayLength :=
  sendPacket_arrayLength ..
@[simp] theorem sendPacket_trajIndex (m toId : Byte) (pl : List Byte) (s : State) :
    (sendPacket m toId pl s).trajIndex = s.trajIndex := by
  simp only [sendPacket]; split <;> rfl
@[simp] theorem sendAck_trajIndex (h : Header) (m : Byte) (s : State) : (sendAck h m s).trajIndex = s.trajIndex :=
  sendPacket_trajIndex ..
@[simp] theorem sendNak_trajIndex (h : Header) (m : Byte) (s : State) : (sendNak h m s).trajIndex = s.trajIndex :=
  sendPacket_trajIndex ..
@[simp] theorem sendPacket_tickCount (m toId : Byte) (pl : List Byte) (s : State) :
    (sendPacket m toId pl s).tickCount = s.tickCount := by
  simp only [sendPacket]; split <;> rfl
@[simp] theorem sendAck_tickCount (h : Header) (m : Byte) (s : State) : (sendAck h m s).tickCount = s.tickCount :=
  sendPacket_tickCount ..
@[simp] theorem sendNak_tickCount (h : Header) (m : Byte) (s : State) : (sendNak h m s).tickCount = s.tickCount :=
  sendPacket_tickCount ..
@[simp] theorem sendPacket_axes (m toId : Byte) (pl : List Byte) (s : State) :
    (sendPacket m toId pl s).axes = s.axes := by
  simp only [sendPacket]; split <;> rfl
@[simp] theorem sendAck_axes (h : Header) (m : Byte) (s : State) : (sendAck h m s).axes = s.axes :=
  sendPacket_axes ..
@[simp] theorem sendNak_axes (h : Header) (m : Byte) (s : State) : (sendNak h m s).axes = s.axes :=
  sendPacket_axes ..
@[simp] theorem stopPlaying_cfg (s : State) : (stopPlaying s).cfg = s.cfg := rfl
@[simp] theorem stopPlaying_pending (s : State) : (stopPlaying s).pending = s.pending := rfl
@[simp] theorem stopPlaying_rxIn (s : State) : (stopPlaying s).rxIn = s.rxIn := rfl
@[simp] theorem stopPlaying_txOut (s : State) : (stopPlaying s).txOut = s.txOut := rfl
@[simp] theorem stopPlaying_canOut (s : State) : (stopPlaying s).canOut = s.canOut := rfl
@[simp] theorem stopPlaying_slot (s : State) : (stopPlaying s).slot = s.slot := rfl
@[simp] theorem stopPlaying_rx (s : State) : (stopPlaying s).rx = s.rx := rfl
@[simp] theorem stopPlaying_pstate (s : State) : (stopPlaying s).pstate = s.pstate := rfl
@[simp] theorem stopPlaying_crc (s : State) : (stopPlaying s).crc = s.crc := rfl
@[simp] theorem stopPlaying_payloadRead (s : State) : (stopPlaying s).payloadRead = s.payloadRead := rfl
@[simp] theorem stopPlaying_pb (s : State) : (stopPlaying s).pb = s.pb := rfl
@[simp] theorem stopPlaying_info (s : State) : (stopPlaying s).info = s.info := rfl
@[simp] theorem stopPlaying_traj (s : State) : (stopPlaying s).traj = s.traj := rfl
@[simp] theorem stopPlaying_arrayLength (s : State) : (stopPlaying s).arrayLength = s.arrayLength := rfl
@[simp] theorem stopPlaying_trajIndex (s : State) : (stopPlaying s).trajIndex = s.trajIndex := rfl
@[simp] theorem stopPlaying_tx (s : State) : (stopPlaying s).tx = s.tx := rfl
@[simp] theorem stopPlaying_txSeq (s : State) : (stopPlaying s).txSeq = s.txSeq := rfl
@[simp] theorem stopPlaying_tickCount (s : State) : (stopPlaying s).tickCount = s.tickCount := rfl
@[simp] theorem stopPlaying_counters (s : State) : (stopPlaying s).counters = s.counters := rfl
@[simp] theorem withTransmit_cfg (s t : State) : (withTransmit s t).cfg = s.cfg := rfl
@[simp] theorem withTransmit_pending (s t : State) : (withTransmit s t).pending = s.pending := rfl
@[simp] theorem withTransmit_rxIn (s t : State) : (withTransmit s t).rxIn = s.rxIn := rfl
@[simp] theorem withTransmit_txOut (s t : State) : (withTransmit s t).txOut = s.txOut := rfl
@[simp] theorem withTransmit_canOut (s t : State) : (withTransmit s t).canOut = s.canOut := rfl
@[simp] theorem withTransmit_slot (s t : State) : (withTransmit s t).slot = s.slot := rfl
@[simp] theorem withTransmit_rx (s t : State) : (withTransmit s t).rx = s.rx := rfl
@[simp] theorem withTransmit_pstate (s t : State) : (withTransmit s t).pstate = s.pstate := rfl
@[simp] theorem withTransmit_crc (s t : State) : (withTransmit s t).crc = s.crc := rfl
@[simp] theorem withTransmit_payloadRead (s t : State) : (withTransmit s t).payloadRead = s.payloadRead := rfl
@[simp] theorem withTransmit_pb (s t : State) : (withTransmit s t).pb = s.pb := rfl
@[simp] theorem withTransmit_info (s t : State) : (withTransmit s t).info = s.info := rfl
@[simp] theorem withTransmit_playing (s t : State) : (withTransmit s t).playing = s.playing := rfl
@[simp] theorem withTransmit_traj (s t : State) : (withTransmit s t).traj = s.traj := rfl
@[simp] theorem withTransmit_arrayLength (s t : State) : (withTransmit s t).arrayLength = s.arrayLength := rfl
@[simp] theorem withTransmit_trajIndex (s t : State) : (withTransmit s t).trajIndex = s.trajIndex := rfl
@[simp] theorem withTransmit_tickCount (s t : State) : (withTransmit s t).tickCount = s.tickCount := rfl
@[simp] theorem withTransmit_axes (s t : State) : (withTransmit s t).axes = s.axes := rfl

@[simp] theorem modifyAxis_axis_self (s : State) (i : Fin 6) (f : Axis → Axis) :
    (s.modifyAxis i f).axis i = f (s.axis i) := Six.get_set_self ..

@[simp] theorem modifyAxis_axis_ne (s : State) (i j : Fin 6) (f : Axis → Axis) (h : j ≠ i) :
    (s.modifyAxis i f).axis j = s.axis j := Six.get_set_ne _ _ _ _ h

@[simp] theorem mapAxes_axis (s : State) (f : Axis → Axis) (i : Fin 6) :
    (s.mapAxes f).axis i = f (s.axis i) := Six.get_map ..

@[simp] theorem mapAxesIdx_axis (s : State) (f : Fin 6 → Axis → Axis) (i : Fin 6) :
    (s.mapAxesIdx f).axis i = f i (s.axis i) := Six.get_mapIdx ..

theorem modifyAxis_axis (s : State) (i j : Fin 6) (f : Axis → Axis) :
    (s.modifyAxis i f).axis j = if j = i then f (s.axis j) else s.axis j := by
  by_cases h : j = i
  · subst h; simp
  · simp [h]

/-- Two states with equal axis records have equal `axes`. -/
theorem axes_ext (s t : State) (h : ∀ i, s.axis i = t.axis i) : s.axes = t.axes := Six.ext_get _ _ h

/-- An axis record after a packet is sent is the one before. -/
@[simp] theorem sendPacket_axis (m toId : Byte) (pl : List Byte) (s : State) (i : Fin 6) :
    (sendPacket m toId pl s).axis i = s.axis i := by simp [State.axis]

@[simp] theorem sendAck_axis (h : Header) (m : Byte) (s : State) (i : Fin 6) :
    (sendAck h m s).axis i = s.axis i := sendPacket_axis ..

@[simp] theorem sendNak_axis (h : Header) (m : Byte) (s : State) (i : Fin 6) :
    (sendNak h m s).axis i = s.axis i := sendPacket_axis ..

/-- Sending a packet changes nothing but the transmit side (R271). -/
theorem sendPacket_eq_withTransmit (m toId : Byte) (pl : List Byte) (s : State) :
    sendPacket m toId pl s = withTransmit s (sendPacket m toId pl s) := by
  simp only [sendPacket]; split <;> rfl

end Sys2Proof.Machine
end

