-- ==== Sys2Proof/Laws/Ops.lean ====
section
/-! SUPPORT. What each shared operation can do, said once. -/

namespace Sys2Proof.Machine

/-- The buffers right after reset are in canonical form. -/
theorem powerOn_memories_wf (c : Config) :
    Memory.wf (State.powerOn c).rx.mem = true ∧ Memory.wf (State.powerOn c).tx.mem = true
      ∧ Memory.wf (State.powerOn c).pb = true ∧ Memory.wf (State.powerOn c).traj = true :=
  ⟨rfl, rfl, rfl, rfl⟩

/-- The whole of `send_packet` (R271): one packet sent, nothing else touched, RB.TX still well formed. -/
theorem sendPacket_spec (m toId : Byte) (pl : List Byte) (s : State) (hv : s.cfg.valid = true)
    (h : Ring.wf s.cfg.txCap s.tx = true) :
    Sent s (sendPacket m toId pl s) m toId pl
      ∧ sendPacket m toId pl s = withTransmit s (sendPacket m toId pl s)
      ∧ Ring.wf s.cfg.txCap (sendPacket m toId pl s).tx = true := by
  obtain ⟨-, -, h45, hcap⟩ := Config.valid_ringCaps _ hv
  have hlen : (outFrame s m toId pl).length = pl.length + s.cfg.overhead := length_packetBytes ..
  have htx : (sendPacket m toId pl s).tx = (Ring.writeBytes s.cfg.txCap s.tx (outFrame s m toId pl)).1 := by
    simp only [sendPacket]; split <;> rfl
  refine ⟨⟨?_, ?_, ?_⟩, sendPacket_eq_withTransmit .., ?_⟩
  · rw [htx]; exact Ring.appended_writeBytes _ _ _ hcap h
  · simp only [sendPacket]; split <;> rfl
  · have hw : (Ring.writeBytes s.cfg.txCap s.tx (outFrame s m toId pl)).2
        = min (outFrame s m toId pl).length (s.cfg.txCap - s.tx.count.toNat) := rfl
    simp only [sendPacket, hw, hlen]
    split
    · rw [if_pos (by omega)]; rfl
    · rw [if_neg (by omega)]
  · rw [htx]; exact Ring.wf_writeBytes _ _ _ hcap h

/-- `Sent` looks only at the transmit side of the later state. -/
theorem Sent.of_transmit {s u t : State} {m dest : Byte} {pl : List Byte} (h : Sent s u m dest pl)
    (htx : t.tx = u.tx) (hseq : t.txSeq = u.txSeq) (hc : t.counters.txTruncCount = u.counters.txTruncCount) :
    Sent s t m dest pl := by
  obtain ⟨a, b, c⟩ := h
  exact ⟨htx ▸ a, hseq ▸ b, hc ▸ c⟩

/-- `send_packet` as an update of the transmit side alone (R271). -/
theorem sendPacket_withTransmit (m dest : Byte) (pl : List Byte) (s : State) (hv : s.cfg.valid = true)
    (h : Ring.wf s.cfg.txCap s.tx = true) :
    ∃ u, sendPacket m dest pl s = withTransmit s u ∧ Sent s u m dest pl ∧ Ring.wf s.cfg.txCap u.tx = true :=
  have a := sendPacket_spec m dest pl s hv h
  ⟨_, a.2.1, a.1, a.2.2⟩

/-- `send_ack` as an update of the transmit side alone (R273). -/
theorem sendAck_withTransmit (h : Header) (m : Byte) (s : State) (hv : s.cfg.valid = true)
    (hr : Ring.wf s.cfg.txCap s.tx = true) :
    ∃ u, sendAck h m s = withTransmit s u ∧ Sent s u s.cfg.msg.ack h.fromId (answerToBytes h.sequence m)
      ∧ Ring.wf s.cfg.txCap u.tx = true :=
  sendPacket_withTransmit _ _ _ s hv hr

/-- `send_nak` as an update of the transmit side alone (R274). -/
theorem sendNak_withTransmit (h : Header) (m : Byte) (s : State) (hv : s.cfg.valid = true)
    (hr : Ring.wf s.cfg.txCap s.tx = true) :
    ∃ u, sendNak h m s = withTransmit s u ∧ Sent s u s.cfg.msg.nak h.fromId (answerToBytes h.sequence m)
      ∧ Ring.wf s.cfg.txCap u.tx = true :=
  sendPacket_withTransmit _ _ _ s hv hr

/-- The two outcomes of `txq_push` (R377). -/
theorem Axis.txqPush_cases (c : Config) (f : Frame) (a : Axis) :
    (a.txq.length = c.canTxqDepth ∧ a.txqPush c f = { a with canTxDropCount := a.canTxDropCount + 1 })
      ∨ (a.txq.length ≠ c.canTxqDepth ∧ a.txqPush c f = { a with txq := a.txq ++ [f] }) := by
  by_cases h : a.txq.length = c.canTxqDepth
  · exact .inl ⟨h, by simp [Axis.txqPush, h, Axis.countTxDrop]⟩
  · exact .inr ⟨h, by simp [Axis.txqPush, h]⟩

/-- A queue within its depth stays within it. -/
theorem Axis.length_txqPush (c : Config) (f : Frame) (a : Axis) (h : a.txq.length ≤ c.canTxqDepth) :
    (a.txqPush c f).txq.length ≤ c.canTxqDepth := by
  obtain ⟨h1, e⟩ | ⟨h1, e⟩ := Axis.txqPush_cases c f a <;> rw [e]
  · exact h
  · simp; omega

/-- The axis an identifier names is the one whose CAN_ID it is (R177). -/
theorem axisOfCanId_some (c : Config) (id : CanId) (i : Fin 6) (h : axisOfCanId c id = some i) :
    c.canId.get i = id := by
  simp only [axisOfCanId] at h
  repeat' split at h
  all_goals first
    | (obtain rfl := Option.some.inj h; assumption)
    | cases h

/-- No axis is named exactly when the identifier is no axis's CAN_ID (R177). -/
theorem axisOfCanId_none (c : Config) (id : CanId) : axisOfCanId c id = none ↔ ∀ i, c.canId.get i ≠ id := by
  constructor
  · intro h i
    simp only [axisOfCanId] at h
    repeat' split at h
    all_goals first
      | (fin_cases i <;> assumption)
      | cases h
  · intro h
    have h0 := h 0; have h1 := h 1; have h2 := h 2; have h3 := h 3; have h4 := h 4; have h5 := h 5
    simp only [Six.get] at h0 h1 h2 h3 h4 h5
    simp [axisOfCanId, h0, h1, h2, h3, h4, h5]

/-- Distinct identifiers route each CAN_ID to its own axis (R9, R177). -/
theorem axisOfCanId_canId (c : Config) (i : Fin 6) (hv : c.valid = true) :
    axisOfCanId c (c.canId.get i) = some i := by
  have hn := Config.valid_canIds c hv
  simp only [Six.toList, List.nodup_cons, List.mem_cons, List.not_mem_nil, or_false, not_or] at hn
  obtain ⟨⟨a1, a2, a3, a4, a5⟩, ⟨b2, b3, b4, b5⟩, ⟨c3, c4, c5⟩, ⟨d4, d5⟩, e5, -⟩ := hn
  fin_cases i <;> simp_all [axisOfCanId, Six.get]

/-- The three outcomes of a reply of a known kind (R375, R450). -/
theorem handleReply_cases (id : CanId) (data : Frame) (act : Axis → Axis) (s : State) :
    (axisOfCanId s.cfg id = none ∧ handleReply id data act s = raise .canUnknownId s)
      ∨ ∃ i, axisOfCanId s.cfg id = some i
          ∧ ((data.b1 = s.cfg.resultSuccess
                ∧ handleReply id data act s
                  = s.modifyAxis i fun a => act (a.recordReply s.tickCount data))
            ∨ (data.b1 ≠ s.cfg.resultSuccess
                ∧ handleReply id data act s
                  = s.modifyAxis i fun a => (a.recordReply s.tickCount data).countMotorErr)) := by
  cases h : axisOfCanId s.cfg id with
  | none => exact .inl ⟨rfl, by simp [handleReply, h]⟩
  | some i =>
    refine .inr ⟨i, rfl, ?_⟩
    by_cases hr : data.b1 = s.cfg.resultSuccess
    · exact .inl ⟨hr, by
        simp only [handleReply, h, if_pos hr, State.modifyAxis, Six.get_set_self, Six.set_set]⟩
    · exact .inr ⟨hr, by
        simp only [handleReply, h, if_neg hr, raise, State.modifyAxis, Six.get_set_self, Six.set_set]⟩

end Sys2Proof.Machine
end

