-- ==== Sys2Proof/Laws/Parser.lean ====
section
/-! SUPPORT. What the two parts of an AwaitPayloadCrc step do, said once (R250-R254). -/

namespace Sys2Proof.Machine

/-- How many payload bytes a step drains, in terms of what RB.RX holds (R250). -/
theorem drainSize_eq (s : State) :
    drainSize s = min (min (Ring.content s.cfg.rxCap s.rx).length (s.info.payloadSize.toNat - s.payloadRead.toNat))
      s.cfg.scratchWindow := by
  rw [Ring.length_content]; rfl

/-- The drain (R250): the first bytes of RB.RX go to PB and into the CRC; RB.RX keeps the rest and stays well formed. -/
theorem drainPayload_spec (s : State) (h : s.Inv) :
    drainPayload s = { s with
        rx := (drainPayload s).rx
        crc := crc32Fold s.crc ((Ring.content s.cfg.rxCap s.rx).take (drainSize s))
        pb := Memory.writeBytes s.pb s.payloadRead.toNat ((Ring.content s.cfg.rxCap s.rx).take (drainSize s))
        payloadRead := u32 (s.payloadRead.toNat + drainSize s) }
      ∧ Ring.content s.cfg.rxCap (drainPayload s).rx = (Ring.content s.cfg.rxCap s.rx).drop (drainSize s)
      ∧ Ring.wf s.cfg.rxCap (drainPayload s).rx = true := by
  have hcap := (Config.valid_ringCaps _ h.valid).2.1
  have hsum : s.payloadRead + u32 (drainSize s) = u32 (s.payloadRead.toNat + drainSize s) := by
    apply BitVec.eq_of_toNat_eq
    simp [u32, BitVec.toNat_add]
  refine ⟨?_, Ring.content_readBytes _ _ _ hcap h.rxRing, Ring.wf_readBytes _ _ _ hcap h.rxRing⟩
  simp only [drainPayload, Ring.readBytes_fst, hsum]

/-- A step never drains past the payload (R250). -/
theorem drainSize_le (s : State) (h : s.Inv) :
    s.payloadRead.toNat + drainSize s ≤ s.info.payloadSize.toNat := by
  have := h.payloadRead
  simp only [drainSize]
  omega

/-- With nothing to drain, the drain changes nothing. -/
theorem drainPayload_eq_self (s : State) (h : s.Inv) (hk : drainSize s = 0) : drainPayload s = s := by
  have ht := ((Ring.wf_iff _ _).1 h.rxRing).2.2.1
  have h1 : u32 ((s.rx.tail.toNat + 0) % s.cfg.rxCap) = s.rx.tail := by
    rw [Nat.add_zero, Nat.mod_eq_of_lt ht]; exact BitVec.eq_of_toNat_eq (toNat_u32 _ s.rx.tail.isLt)
  have h2 : u32 (s.rx.count.toNat - 0) = s.rx.count := by
    rw [Nat.sub_zero]; exact BitVec.eq_of_toNat_eq (toNat_u32 _ s.rx.count.isLt)
  have h3 : s.payloadRead + u32 0 = s.payloadRead := by simp [u32]
  simp only [drainPayload, hk, Ring.readBytes, Nat.zero_min, h1, h2, h3]
  rfl

/-- The verdict (R252, R253, R450): the CRC first, and at most one condition counted. -/
theorem judge_spec (f : List Byte) (s : State) :
    judge f s = { s with
      pstate := .packetComplete
      info := { s.info with isValid := footerCrcOk s.crc f && footerEndOk s.cfg f }
      counters :=
        if footerCrcOk s.crc f then
          if footerEndOk s.cfg f then { s.counters with rxOkCount := s.counters.rxOkCount + 1 }
          else { s.counters with rxEndErrCount := s.counters.rxEndErrCount + 1 }
        else { s.counters with
          rxCrcErrCount := s.counters.rxCrcErrCount + 1
          lastExpectedCrc := wordAt f 0
          lastComputedCrc := crc32Final s.crc } } := by
  simp only [judge]
  cases footerCrcOk s.crc f <;> cases footerEndOk s.cfg f <;> rfl

end Sys2Proof.Machine
end

