-- ==== Sys2Proof/Laws/PerInstr.lean ====
section
/-! SUPPORT. What every encoding shows, per instruction: the selector byte at its place and the length (R150, R151,
R170). -/

namespace Sys2Proof.Laws

/-- The selector of a wire: byte 11 of a host packet, byte 0 of a motor frame (R150, R170). -/
def selectorOf (w : Wire) : Byte :=
  match w with
  | .packet bs => bs.getD 11 0
  | .frame _ f => f.b0

/-- The number of bytes on the wire. -/
def lengthOf (w : Wire) : Nat :=
  match w with
  | .packet bs => bs.length
  | .frame _ f => f.toList.length

/-- The selector of the opcode table's row (R160, R170). -/
def rowSelector (c : Config) (i : Instr) : Byte :=
  match i with
  | .heartbeat _ _ => c.msg.heartbeat
  | .enable _ _ => c.msg.enable
  | .play _ _ => c.msg.play
  | .pause _ _ => c.msg.pause
  | .stop _ _ => c.msg.stop
  | .disable _ _ => c.msg.disable
  | .upload _ _ => c.msg.upload
  | .ack _ _ _ => c.msg.ack
  | .nak _ _ _ => c.msg.nak
  | .reset _ _ => c.msg.reset
  | .quit _ _ => c.msg.quit
  | .connect _ _ => c.msg.connect
  | .disconnect _ _ => c.msg.disconnect
  | .move _ _ => c.msg.move
  | .feedback _ _ => c.msg.feedback
  | .info _ _ => c.msg.info
  | .unknown _ m _ => m
  | .opResetConfig _ _ => c.op.resetConfig
  | .opRefreshConfig _ _ => c.op.refreshConfig
  | .opModifyConfig _ _ => c.op.modifyConfig
  | .opRetrieveConfig _ _ => c.op.retrieveConfig
  | .opStartMotor _ _ => c.op.startMotor
  | .opStopMotor _ _ => c.op.stopMotor
  | .opTorqueCtrl _ _ => c.op.torqueCtrl
  | .opSpeedCtrl _ _ => c.op.speedCtrl
  | .opPositionCtrl _ _ => c.op.positionCtrl
  | .opStopCtrl _ _ => c.op.stopCtrl
  | .opModifyParam _ _ => c.op.modifyParam
  | .opRetrieveParam _ _ => c.op.retrieveParam
  | .opGetVersion _ _ => c.op.getVersion
  | .opGetFault _ _ => c.op.getFault
  | .opAckFault _ _ => c.op.ackFault
  | .opRetrieveIndicator _ _ => c.op.retrieveIndicator

/-- The length of the encoding: a payload and OVERHEAD (R151), or eight bytes (R170). -/
def rowLength (c : Config) (i : Instr) : Nat :=
  match i with
  | .heartbeat _ p => p.length + c.overhead
  | .enable _ p => p.length + c.overhead
  | .play _ p => p.length + c.overhead
  | .pause _ p => p.length + c.overhead
  | .stop _ p => p.length + c.overhead
  | .disable _ p => p.length + c.overhead
  | .upload _ rows => 24 * rows.length + c.overhead
  | .ack _ _ _ => 5 + c.overhead
  | .nak _ _ _ => 5 + c.overhead
  | .reset _ p => p.length + c.overhead
  | .quit _ p => p.length + c.overhead
  | .connect _ p => p.length + c.overhead
  | .disconnect _ p => p.length + c.overhead
  | .move _ _ => 24 + c.overhead
  | .feedback _ _ => 28 + c.overhead
  | .info _ p => p.length + c.overhead
  | .unknown _ _ p => p.length + c.overhead
  | .opResetConfig _ _ => 8
  | .opRefreshConfig _ _ => 8
  | .opModifyConfig _ _ => 8
  | .opRetrieveConfig _ _ => 8
  | .opStartMotor _ _ => 8
  | .opStopMotor _ _ => 8
  | .opTorqueCtrl _ _ => 8
  | .opSpeedCtrl _ _ => 8
  | .opPositionCtrl _ _ => 8
  | .opStopCtrl _ _ => 8
  | .opModifyParam _ _ => 8
  | .opRetrieveParam _ _ => 8
  | .opGetVersion _ _ => 8
  | .opGetFault _ _ => 8
  | .opAckFault _ _ => 8
  | .opRetrieveIndicator _ _ => 8

/-- The encoding of `i` shows its row's selector and has the row's length. -/
def SelectorByte.Statement (i : Instr) : Prop :=
  ∀ c : Config, selectorOf (encode c i) = rowSelector c i ∧ lengthOf (encode c i) = rowLength c i

theorem selectorOf_packet (c : Config) (h : Header) (m : Byte) (p : List Byte) :
    selectorOf (.packet (packetBytes c h m p)) = m := rfl

theorem lengthOf_packet (c : Config) (h : Header) (m : Byte) (p : List Byte) (n : Nat) (hn : p.length = n) :
    lengthOf (.packet (packetBytes c h m p)) = n + c.overhead := hn ▸ length_packetBytes c h m p

theorem SelectorByte.heartbeat (h : Header) (p : List Byte) : SelectorByte.Statement (.heartbeat h p) := fun _ =>
  ⟨selectorOf_packet .., lengthOf_packet _ _ _ _ _ rfl⟩

theorem SelectorByte.enable (h : Header) (p : List Byte) : SelectorByte.Statement (.enable h p) := fun _ =>
  ⟨selectorOf_packet .., lengthOf_packet _ _ _ _ _ rfl⟩

theorem SelectorByte.play (h : Header) (p : List Byte) : SelectorByte.Statement (.play h p) := fun _ =>
  ⟨selectorOf_packet .., lengthOf_packet _ _ _ _ _ rfl⟩

theorem SelectorByte.pause (h : Header) (p : List Byte) : SelectorByte.Statement (.pause h p) := fun _ =>
  ⟨selectorOf_packet .., lengthOf_packet _ _ _ _ _ rfl⟩

theorem SelectorByte.stop (h : Header) (p : List Byte) : SelectorByte.Statement (.stop h p) := fun _ =>
  ⟨selectorOf_packet .., lengthOf_packet _ _ _ _ _ rfl⟩

theorem SelectorByte.disable (h : Header) (p : List Byte) : SelectorByte.Statement (.disable h p) := fun _ =>
  ⟨selectorOf_packet .., lengthOf_packet _ _ _ _ _ rfl⟩

theorem SelectorByte.upload (h : Header) (rows : List Row) : SelectorByte.Statement (.upload h rows) := fun _ =>
  ⟨selectorOf_packet .., lengthOf_packet _ _ _ _ _ (length_rowsToBytes rows)⟩

theorem SelectorByte.ack (h : Header) (q : U32) (m : Byte) : SelectorByte.Statement (.ack h q m) := fun _ =>
  ⟨selectorOf_packet .., lengthOf_packet _ _ _ _ _ rfl⟩

theorem SelectorByte.nak (h : Header) (q : U32) (m : Byte) : SelectorByte.Statement (.nak h q m) := fun _ =>
  ⟨selectorOf_packet .., lengthOf_packet _ _ _ _ _ rfl⟩

theorem SelectorByte.reset (h : Header) (p : List Byte) : SelectorByte.Statement (.reset h p) := fun _ =>
  ⟨selectorOf_packet .., lengthOf_packet _ _ _ _ _ rfl⟩

theorem SelectorByte.quit (h : Header) (p : List Byte) : SelectorByte.Statement (.quit h p) := fun _ =>
  ⟨selectorOf_packet .., lengthOf_packet _ _ _ _ _ rfl⟩

theorem SelectorByte.connect (h : Header) (p : List Byte) : SelectorByte.Statement (.connect h p) := fun _ =>
  ⟨selectorOf_packet .., lengthOf_packet _ _ _ _ _ rfl⟩

theorem SelectorByte.disconnect (h : Header) (p : List Byte) : SelectorByte.Statement (.disconnect h p) := fun _ =>
  ⟨selectorOf_packet .., lengthOf_packet _ _ _ _ _ rfl⟩

theorem SelectorByte.move (h : Header) (row : Row) : SelectorByte.Statement (.move h row) := fun _ =>
  ⟨selectorOf_packet .., lengthOf_packet _ _ _ _ _ rfl⟩

theorem SelectorByte.feedback (h : Header) (fb : Feedback) : SelectorByte.Statement (.feedback h fb) := fun _ =>
  ⟨selectorOf_packet .., lengthOf_packet _ _ _ _ _ rfl⟩

theorem SelectorByte.info (h : Header) (p : List Byte) : SelectorByte.Statement (.info h p) := fun _ =>
  ⟨selectorOf_packet .., lengthOf_packet _ _ _ _ _ rfl⟩

theorem SelectorByte.unknown (h : Header) (m : Byte) (p : List Byte) : SelectorByte.Statement (.unknown h m p) := fun _ =>
  ⟨selectorOf_packet .., lengthOf_packet _ _ _ _ _ rfl⟩

theorem SelectorByte.opResetConfig (id : CanId) (r : RawReply) : SelectorByte.Statement (.opResetConfig id r) :=
  fun _ => ⟨rfl, rfl⟩

theorem SelectorByte.opRefreshConfig (id : CanId) (r : RawReply) : SelectorByte.Statement (.opRefreshConfig id r) :=
  fun _ => ⟨rfl, rfl⟩

theorem SelectorByte.opModifyConfig (id : CanId) (r : RawReply) : SelectorByte.Statement (.opModifyConfig id r) :=
  fun _ => ⟨rfl, rfl⟩

theorem SelectorByte.opRetrieveConfig (id : CanId) (r : RawReply) : SelectorByte.Statement (.opRetrieveConfig id r) :=
  fun _ => ⟨rfl, rfl⟩

theorem SelectorByte.opStartMotor (id : CanId) (r : RawReply) : SelectorByte.Statement (.opStartMotor id r) :=
  fun _ => ⟨rfl, rfl⟩

theorem SelectorByte.opStopMotor (id : CanId) (r : RawReply) : SelectorByte.Statement (.opStopMotor id r) :=
  fun _ => ⟨rfl, rfl⟩

theorem SelectorByte.opTorqueCtrl (id : CanId) (r : ControlReply) : SelectorByte.Statement (.opTorqueCtrl id r) :=
  fun _ => ⟨rfl, rfl⟩

theorem SelectorByte.opSpeedCtrl (id : CanId) (r : ControlReply) : SelectorByte.Statement (.opSpeedCtrl id r) :=
  fun _ => ⟨rfl, rfl⟩

theorem SelectorByte.opPositionCtrl (id : CanId) (r : ControlReply) : SelectorByte.Statement (.opPositionCtrl id r) :=
  fun _ => ⟨rfl, rfl⟩

theorem SelectorByte.opStopCtrl (id : CanId) (r : RawReply) : SelectorByte.Statement (.opStopCtrl id r) :=
  fun _ => ⟨rfl, rfl⟩

theorem SelectorByte.opModifyParam (id : CanId) (r : RawReply) : SelectorByte.Statement (.opModifyParam id r) :=
  fun _ => ⟨rfl, rfl⟩

theorem SelectorByte.opRetrieveParam (id : CanId) (r : RawReply) : SelectorByte.Statement (.opRetrieveParam id r) :=
  fun _ => ⟨rfl, rfl⟩

theorem SelectorByte.opGetVersion (id : CanId) (r : RawReply) : SelectorByte.Statement (.opGetVersion id r) :=
  fun _ => ⟨rfl, rfl⟩

theorem SelectorByte.opGetFault (id : CanId) (r : RawReply) : SelectorByte.Statement (.opGetFault id r) :=
  fun _ => ⟨rfl, rfl⟩

theorem SelectorByte.opAckFault (id : CanId) (r : RawReply) : SelectorByte.Statement (.opAckFault id r) :=
  fun _ => ⟨rfl, rfl⟩

theorem SelectorByte.opRetrieveIndicator (id : CanId) (r : RawReply) : SelectorByte.Statement (.opRetrieveIndicator id r) :=
  fun _ => ⟨rfl, rfl⟩

end Sys2Proof.Laws
end

