-- ==== Sys2Proof/Laws/Step.lean ====
section
/-! SUPPORT. What one step can do: the events behind a next state. -/

namespace Sys2Proof.Machine

theorem ofExcept_next (r : Except Fault State) (t : State) : ofExcept r = .next t ↔ r = .ok t := by
  cases r <;> simp [ofExcept]

theorem mapNext_next (f : State → State) (r : Result) (t : State) :
    mapNext f r = .next t ↔ ∃ u, r = .next u ∧ t = f u := by
  cases r <;> simp [mapNext, eq_comm]

/-- A next state comes from the head of the schedule, or from the next main-loop event. -/
theorem step_cases (s t : State) (h : step s = .next t) :
    s.cfg.valid = true
      ∧ ((s.pending = [] ∧ mainLoopStep s = .next t)
        ∨ ∃ e rest, s.pending = e :: rest ∧ runEvent e { s with pending := rest } = .next t) := by
  simp only [step, nextEvent] at h
  split at h
  · rename_i hv
    refine ⟨hv, ?_⟩
    split at h
    · exact .inl ⟨by assumption, h⟩
    · exact .inr ⟨_, _, by assumption, h⟩
  · cases h

/-- A main-loop event comes next: the step is that event, with its entry of the schedule consumed (R121). -/
theorem step_mainLoop (s : State) (later : List Event) (hv : s.cfg.valid = true)
    (hp : (s.pending = [] ∧ later = []) ∨ s.pending = .mainLoop :: later) :
    step s = mainLoopStep { s with pending := later } := by
  simp only [step, nextEvent, hv, if_true]
  obtain ⟨hp, rfl⟩ | hp := hp
  · simp only [hp]; rw [← hp]
  · simp only [hp]; rfl

/-- The PARSE_STEP turn of the main loop (R121, R238). -/
theorem mainLoopStep_parseStep (s : State) (hs : s.slot = .parseStep) :
    mainLoopStep s = mapNext (fun t => { t with slot := .canDrain }) (parseStep s) := by
  unfold mainLoopStep; rw [hs]

/-- The three places of the main loop (R121). -/
theorem mainLoopStep_cases (s t : State) (h : mainLoopStep s = .next t) :
    (s.slot = .rxPoll ∧ t = { rxPoll s with slot := .parseStep })
      ∨ (s.slot = .parseStep ∧ ∃ u, parseStep s = .next u ∧ t = { u with slot := .canDrain })
      ∨ (s.slot = .canDrain ∧ t = { canDrain s with slot := .rxPoll }) := by
  simp only [mainLoopStep] at h
  split at h
  · exact .inl ⟨by assumption, by simpa using h.symm⟩
  · exact .inr (.inl ⟨by assumption, (mapNext_next _ _ _).1 h⟩)
  · exact .inr (.inr ⟨by assumption, by simpa using h.symm⟩)

/-- The parser states and what a PARSE_STEP in each leaves (R238). -/
theorem parseStep_cases (s t : State) (h : parseStep s = .next t) :
    (s.pstate = .awaitStart ∧ t = awaitStartStep s)
      ∨ (s.pstate = .awaitHeader ∧ t = awaitHeaderStep s)
      ∨ (s.pstate = .awaitPayloadCrc ∧ s.payloadRead.toNat + drainSize s ≤ s.cfg.maxPayload
          ∧ t = footerStep (drainPayload s))
      ∨ (s.pstate = .packetComplete ∧ s.info.isValid = false ∧ t = { s with pstate := .awaitStart })
      ∨ (s.pstate = .packetComplete ∧ s.info.isValid = true
          ∧ ∃ i u, fetchMessage s = .ok i ∧ exec i s = .next u ∧ t = { u with pstate := .awaitStart }) := by
  simp only [parseStep] at h
  split at h
  · exact .inl ⟨by assumption, by simpa using h.symm⟩
  · exact .inr (.inl ⟨by assumption, by simpa using h.symm⟩)
  · rw [ofExcept_next, awaitPayloadStep] at h
    split at h
    · cases h
    · exact .inr (.inr (.inl ⟨by assumption, by omega, by simpa using h.symm⟩))
  · rename_i hp
    rw [packetCompleteStep] at h
    split at h
    · rename_i hv
      split at h
      · rename_i i hi
        obtain ⟨u, hu, e⟩ := (mapNext_next _ _ _).1 h
        exact .inr (.inr (.inr (.inr ⟨hp, hv, i, u, hi, hu, e⟩)))
      · cases h
    · rename_i hv
      exact .inr (.inr (.inr (.inl ⟨hp, by simpa using hv, by simpa using h.symm⟩)))

/-- One axis's part of a TICK, when it does not fault (R380). -/
theorem tickAxis_ok (i : Fin 6) (s t : State) (h : tickAxis i s = .ok t) :
    ∃ a, (s.axis i).calibrate s.cfg (s.cfg.direction.get i) = some a
      ∧ t = (if (a.pdIssue s.cfg).newTelemetry
             then feedbackAxis i (s.modifyAxis i fun _ => a.pdIssue s.cfg)
             else s.modifyAxis i fun _ => a.pdIssue s.cfg) := by
  simp only [tickAxis] at h
  split at h
  · cases h
  · rename_i a ha
    refine ⟨a, ha, ?_⟩
    simp only [modifyAxis_axis_self] at h
    simpa using (Except.ok.inj h).symm

/-- A property that each axis's part of a TICK keeps is kept by all of them (R380). -/
theorem tickAxes_induction (P : State → Prop)
    (hstep : ∀ i s t, P s → tickAxis i s = .ok t → P t) (is : List (Fin 6)) (s t : State) (hs : P s)
    (h : tickAxes is s = .ok t) : P t := by
  induction is generalizing s with
  | nil => simp only [tickAxes, Except.ok.injEq] at h; exact h ▸ hs
  | cons i rest ih =>
    simp only [tickAxes] at h
    split at h
    · cases h
    · rename_i u hu
      exact ih u (hstep i s u hs hu) h

/-- Playback, when it does not fault (R381). -/
theorem playback_ok (s t : State) (h : playback s = .ok t) :
    (s.playing = true ∧ 0 < s.arrayLength.toNat ∧ s.trajIndex.toNat < s.cfg.trajRows
        ∧ t = { applyRow (trajRow s.traj s.trajIndex.toNat) s with
                  trajIndex := u32 ((s.trajIndex.toNat + 1) % s.arrayLength.toNat) })
      ∨ (¬ (s.playing = true ∧ 0 < s.arrayLength.toNat) ∧ t = s) := by
  simp only [playback] at h
  split at h
  · split at h
    · rename_i hp hr
      exact .inl ⟨hp.1, hp.2, hr, (Except.ok.inj h).symm⟩
    · cases h
  · exact .inr ⟨by assumption, (Except.ok.inj h).symm⟩

/-- A property that each axis's part of CAN_DRAIN keeps is kept by CAN_DRAIN (R378). -/
theorem canDrain_induction (P : State → Prop) (hstep : ∀ i s, P s → P (drainAxis s i)) (s : State) (hs : P s) :
    P (canDrain s) := by
  unfold canDrain
  generalize axisOrder = is
  induction is generalizing s with
  | nil => exact hs
  | cons i rest ih => exact ih _ (hstep i s hs)

end Sys2Proof.Machine
end

