-- ==== Sys2Proof/Tests/Slice0.lean ====
section
/-! SUPPORT. Tests and witnesses. Expected values come from spec/95_test_vectors.md (cited as V and its section) or are
worked out by hand from the rules cited; the CRC of a packet that the spec does not show was computed outside the model. -/

namespace Sys2Proof.Tests

/- One theorem after the other: each kernel evaluation elaborated beside the others holds a thread of its own. -/
set_option Elab.async false

open Sys2Proof.Machine

/-! Well-formedness: a term that breaks each check is refused. -/

/-- The default parameters with room for three payload bytes. -/
def tiny : Config := { Config.default with maxPacketSize := 20 }

theorem test_default_valid : Config.default.valid = true := by decide +kernel

theorem test_tiny_valid : tiny.valid = true := by decide +kernel

/-- R10: every constraint of R9 broken once, on its boundary where it has one. -/
theorem test_invalid_parameters : ∀ c ∈
    [{ Config.default with numAxes := 5 }, { Config.default with rxCap := 11 }, { Config.default with rxCap := 2 ^ 32 },
      { Config.default with txCap := 44 }, { Config.default with txCap := 2 ^ 32 },
      { Config.default with maxPacketSize := 16 }, { Config.default with maxPacketSize := 2 ^ 32 },
      { Config.default with scratchWindow := 0 }, { Config.default with trajRows := 0 },
      { Config.default with msg := { MsgIds.default with info := 0x01 } },
      { Config.default with op := { OpCodes.default with getFault := 0x81 } },
      { Config.default with posMin := 0x41480000 }, { Config.default with velMax := 0xC2820000 },
      { Config.default with curMin := 0x7FC00000 }, { Config.default with angleLimit := 0 },
      { Config.default with calStep := 0x80000000 }, { Config.default with calTol := 0x39FFFFFF },
      { Config.default with dwellTicks := 0 },
      { Config.default with debounceN := 0 },
      { Config.default with canId := ⟨1, 2, 3, 4, 5, 1⟩ }, { Config.default with canTxqDepth := 1 },
      { Config.default with pdDuration := 0x01000000 }], c.valid = false := by decide +kernel

/-- R10: the same constraints just met. -/
theorem test_valid_boundaries : ∀ c ∈
    [{ Config.default with rxCap := 12 }, { Config.default with txCap := 45 },
      { Config.default with maxPacketSize := 17 }, { Config.default with maxPacketSize := 2 ^ 32 - 1 },
      { Config.default with maxPacketSize := 16, hasEndMarker := false }, { Config.default with scratchWindow := 1 },
      { Config.default with trajRows := 1 }, { Config.default with calTol := 0x3A000000 },
      { Config.default with dwellTicks := 1 }, { Config.default with debounceN := 1 },
      { Config.default with canTxqDepth := 2 }, { Config.default with pdDuration := 0x00FFFFFF }],
    c.valid = true := by decide +kernel

/-- R150: a payload beyond MAX_PAYLOAD has no encoding; UNKNOWN with an id of another kind is not UNKNOWN (R161). -/
theorem test_ill_formed_messages : ∀ i ∈
    [Instr.heartbeat ⟨0, 0, 0⟩ [1, 2, 3, 4], .enable ⟨0, 0, 0⟩ [1, 2, 3, 4], .play ⟨0, 0, 0⟩ [1, 2, 3, 4],
      .pause ⟨0, 0, 0⟩ [1, 2, 3, 4], .stop ⟨0, 0, 0⟩ [1, 2, 3, 4], .disable ⟨0, 0, 0⟩ [1, 2, 3, 4],
      .upload ⟨0, 0, 0⟩ [Six.replicate 0], .ack ⟨0, 0, 0⟩ 0 0, .nak ⟨0, 0, 0⟩ 0 0, .reset ⟨0, 0, 0⟩ [1, 2, 3, 4],
      .quit ⟨0, 0, 0⟩ [1, 2, 3, 4], .connect ⟨0, 0, 0⟩ [1, 2, 3, 4], .disconnect ⟨0, 0, 0⟩ [1, 2, 3, 4],
      .move ⟨0, 0, 0⟩ (Six.replicate 0), .feedback ⟨0, 0, 0⟩ Feedback.zero, .info ⟨0, 0, 0⟩ [1, 2, 3, 4],
      .unknown ⟨0, 0, 0⟩ 0x42 [1, 2, 3, 4], .unknown ⟨0, 0, 0⟩ 0x0E []], i.wellFormed tiny = false := by decide

/-- R292: a raw7 argument of six or eight bytes is no frame. -/
theorem test_ill_formed_requests : ∀ r ∈
    [Request.modifyConfig [1, 2, 3, 4, 5, 6], .retrieveConfig [1, 2, 3, 4, 5, 6], .modifyParam [1, 2, 3, 4, 5, 6],
      .retrieveParam [1, 2, 3, 4, 5, 6, 7, 8], .ackFault [], .retrieveIndicator [1, 2, 3, 4, 5, 6]],
    r.wellFormed = false ∧ encRequest Config.default r = none := by decide

/-! Decoding: one word per constructor, written out from the encodings of 30_encoding.md. -/

/-- A host packet under the default parameters. -/
def packet (bs : List Byte) : Except DecodeError Instr := decode Config.default (.packet bs)

/-- A CAN frame under the default parameters. -/
def frame (id : CanId) (f : Frame) : Except DecodeError Instr := decode Config.default (.frame id f)

/-- V3 P1. -/
theorem test_decode_heartbeat : packet [0x7E, 0x11, 0x00, 0x00, 0x00, 0x2A, 0x00, 0x00, 0x00, 0x00, 0x01, 0x01,
    0x8B, 0xE8, 0x07, 0xDC, 0x7F] = .ok (.heartbeat ⟨0x2A, 0, 1⟩ []) := by decide +kernel

/-- V3 P3. -/
theorem test_decode_enable : packet [0x7E, 0x11, 0x00, 0x00, 0x00, 0x01, 0x00, 0x00, 0x00, 0x00, 0x01, 0x02,
    0x57, 0xD4, 0xB4, 0x88, 0x7F] = .ok (.enable ⟨1, 0, 1⟩ []) := by decide +kernel

/-- V3 P2. -/
theorem test_decode_play : packet [0x7E, 0x11, 0x00, 0x00, 0x00, 0x02, 0x00, 0x00, 0x00, 0x00, 0x01, 0x03, 0x5C,
    0xFE, 0x5B, 0xCE, 0x7F] = .ok (.play ⟨2, 0, 1⟩ []) := by decide +kernel

/-- V3 P5. -/
theorem test_decode_pause : packet [0x7E, 0x11, 0x00, 0x00, 0x00, 0x04, 0x00, 0x00, 0x00, 0x00, 0x01, 0x04,
    0xC5, 0x5E, 0xEF, 0x33, 0x7F] = .ok (.pause ⟨4, 0, 1⟩ []) := by decide +kernel

/-- R150, R162: a payload that STOP carries and ignores. -/
theorem test_decode_stop : packet [0x7E, 0x13, 0x00, 0x00, 0x00, 0x07, 0x00, 0x00, 0x00, 0x02, 0x01, 0x05, 0xAA,
    0x01, 0xC4, 0xAA, 0xBB, 0x7A, 0x7F] = .ok (.stop ⟨7, 2, 1⟩ [0xAA, 0x01]) := by decide +kernel

/-- R150: the sequence number, least significant byte first. -/
theorem test_decode_disable : packet [0x7E, 0x11, 0x00, 0x00, 0x00, 0x04, 0x03, 0x02, 0x01, 0x00, 0x01, 0x06,
    0x42, 0x79, 0x09, 0x99, 0x7F] = .ok (.disable ⟨0x01020304, 0, 1⟩ []) := by decide +kernel

/-- V3 P2: two rows. -/
theorem test_decode_upload : packet [0x7E, 0x41, 0x00, 0x00, 0x00, 0x01, 0x00, 0x00, 0x00, 0x00, 0x01, 0x07,
    0x00, 0x00, 0x00, 0x3F, 0x00, 0x00, 0x00, 0x00, 0x00, 0x00, 0x00, 0x00, 0x00, 0x00, 0x00, 0x00, 0x00, 0x00,
    0x00, 0x00, 0x00, 0x00, 0x00, 0x00, 0x00, 0x00, 0x00, 0x40, 0x00, 0x00, 0x80, 0xBE, 0x00, 0x00, 0x00, 0x00,
    0x00, 0x00, 0x00, 0x00, 0x00, 0x00, 0x00, 0x00, 0x00, 0x00, 0x00, 0x00, 0x50, 0xC2, 0x08, 0x38, 0x7F] = .ok
    (.upload ⟨1, 0, 1⟩ [⟨0x3F000000, 0, 0, 0, 0, 0⟩, ⟨0x40000000, 0xBE800000, 0, 0, 0, 0⟩]) := by decide +kernel

/-- V2.3, the reply to HEARTBEAT. -/
theorem test_decode_ack : packet [0x7E, 0x16, 0x00, 0x00, 0x00, 0x00, 0x00, 0x00, 0x00, 0x01, 0x00, 0x08, 0x05,
    0x00, 0x00, 0x00, 0x01, 0x37, 0xAD, 0xD7, 0xC6, 0x7F] = .ok (.ack ⟨0, 1, 0⟩ 5 0x01) := by decide +kernel

/-- V3 P6. -/
theorem test_decode_nak : packet [0x7E, 0x16, 0x00, 0x00, 0x00, 0x02, 0x00, 0x00, 0x00, 0x01, 0x00, 0x09, 0x03,
    0x00, 0x00, 0x00, 0x0E, 0x3C, 0x08, 0x4F, 0xFE, 0x7F] = .ok (.nak ⟨2, 1, 0⟩ 3 0x0E) := by decide +kernel

/-- R150, R160. -/
theorem test_decode_reset : packet [0x7E, 0x11, 0x00, 0x00, 0x00, 0x08, 0x00, 0x00, 0x00, 0x00, 0x01, 0x0A,
    0xB6, 0x19, 0xF7, 0x13, 0x7F] = .ok (.reset ⟨8, 0, 1⟩ []) := by decide +kernel

/-- R150, R160. -/
theorem test_decode_quit : packet [0x7E, 0x11, 0x00, 0x00, 0x00, 0x09, 0x00, 0x00, 0x00, 0x00, 0x01, 0x0B, 0x94,
    0x22, 0x87, 0xC2, 0x7F] = .ok (.quit ⟨9, 0, 1⟩ []) := by decide +kernel

/-- V1.2, packet B. -/
theorem test_decode_connect : packet [0x7E, 0x11, 0x00, 0x00, 0x00, 0x02, 0x00, 0x00, 0x00, 0x00, 0x01, 0x0C,
    0xCD, 0xE3, 0xE4, 0x5E, 0x7F] = .ok (.connect ⟨2, 0, 1⟩ []) := by decide +kernel

/-- R150, R160. -/
theorem test_decode_disconnect : packet [0x7E, 0x11, 0x00, 0x00, 0x00, 0x0A, 0x00, 0x00, 0x00, 0x00, 0x01, 0x0D,
    0x3C, 0x9D, 0x0C, 0x1A, 0x7F] = .ok (.disconnect ⟨10, 0, 1⟩ []) := by decide +kernel

/-- V3 P6. -/
theorem test_decode_move : packet [0x7E, 0x29, 0x00, 0x00, 0x00, 0x01, 0x00, 0x00, 0x00, 0x00, 0x01, 0x0E, 0x00,
    0x00, 0x00, 0x3F, 0x00, 0x00, 0x00, 0xC0, 0x00, 0x00, 0x00, 0x00, 0x00, 0x00, 0x00, 0x00, 0x00, 0x00, 0x00,
    0x00, 0x00, 0x00, 0x00, 0x00, 0x5A, 0x48, 0x75, 0x5B, 0x7F] = .ok (.move ⟨1, 0, 1⟩ ⟨0x3F000000, 0xC0000000, 0,
    0, 0, 0⟩) := by decide +kernel

/-- V3 P3, step 7. -/
theorem test_decode_feedback : packet [0x7E, 0x2D, 0x00, 0x00, 0x00, 0x02, 0x00, 0x00, 0x00, 0x01, 0x00, 0x0F,
    0x00, 0x00, 0x05, 0x1E, 0x00, 0x00, 0x48, 0x39, 0x00, 0x10, 0x82, 0x3C, 0x00, 0x10, 0x61, 0x3D, 0x00, 0x00,
    0x80, 0x3A, 0x01, 0x00, 0x00, 0x00, 0x01, 0x00, 0x00, 0x00, 0x97, 0x86, 0x03, 0x4D, 0x7F] = .ok (.feedback ⟨2,
    1, 0⟩ ⟨0, 0, 5, 30, 0x39480000, 0x3C821000, 0x3D611000, 0x3A800000, 1, 1⟩) := by decide +kernel

/-- R150, R160. -/
theorem test_decode_info : packet [0x7E, 0x14, 0x00, 0x00, 0x00, 0x0B, 0x00, 0x00, 0x00, 0x22, 0x01, 0x10, 0x09,
    0x09, 0x05, 0xE5, 0x27, 0x66, 0x32, 0x7F] = .ok (.info ⟨11, 0x22, 1⟩ [9, 9, 5]) := by decide +kernel

/-- V2.3. -/
theorem test_decode_unknown : packet [0x7E, 0x11, 0x00, 0x00, 0x00, 0x00, 0x00, 0x00, 0x00, 0x00, 0x01, 0x42,
    0x73, 0x9E, 0x1F, 0x58, 0x7F] = .ok (.unknown ⟨0, 0, 1⟩ 0x42 []) := by decide +kernel

/-- R160's own UNKNOWN id. -/
theorem test_decode_unknown_listed : packet [0x7E, 0x11, 0x00, 0x00, 0x00, 0x00, 0x00, 0x00, 0x00, 0x00, 0x01,
    0xFF, 0x42, 0x51, 0xCF, 0xED, 0x7F] = .ok (.unknown ⟨0, 0, 1⟩ 0xFF []) := by decide +kernel

/-- R170, R174. -/
theorem test_decode_op_reset_config : frame 1 ⟨0x81, 0, 1, 2, 3, 4, 5, 6⟩
    = .ok (.opResetConfig 1 ⟨0, ⟨1, 2, 3, 4, 5, 6⟩⟩) := by decide

/-- R170, R174. -/
theorem test_decode_op_refresh_config : frame 2 ⟨0x82, 1, 1, 2, 3, 4, 5, 6⟩
    = .ok (.opRefreshConfig 2 ⟨1, ⟨1, 2, 3, 4, 5, 6⟩⟩) := by decide

/-- R170, R174. -/
theorem test_decode_op_modify_config : frame 3 ⟨0x83, 2, 1, 2, 3, 4, 5, 6⟩
    = .ok (.opModifyConfig 3 ⟨2, ⟨1, 2, 3, 4, 5, 6⟩⟩) := by decide

/-- R170, R174. -/
theorem test_decode_op_retrieve_config : frame 4 ⟨0x84, 0, 1, 2, 3, 4, 5, 6⟩
    = .ok (.opRetrieveConfig 4 ⟨0, ⟨1, 2, 3, 4, 5, 6⟩⟩) := by decide

/-- R170, R174. -/
theorem test_decode_op_start_motor : frame 5 ⟨0x91, 1, 1, 2, 3, 4, 5, 6⟩
    = .ok (.opStartMotor 5 ⟨1, ⟨1, 2, 3, 4, 5, 6⟩⟩) := by decide

/-- R170, R174. -/
theorem test_decode_op_stop_motor : frame 6 ⟨0x92, 2, 1, 2, 3, 4, 5, 6⟩
    = .ok (.opStopMotor 6 ⟨2, ⟨1, 2, 3, 4, 5, 6⟩⟩) := by decide

/-- R170, R174. -/
theorem test_decode_op_stop_ctrl : frame 1 ⟨0x97, 0, 1, 2, 3, 4, 5, 6⟩
    = .ok (.opStopCtrl 1 ⟨0, ⟨1, 2, 3, 4, 5, 6⟩⟩) := by decide

/-- R170, R174. -/
theorem test_decode_op_modify_param : frame 2 ⟨0xA1, 1, 1, 2, 3, 4, 5, 6⟩
    = .ok (.opModifyParam 2 ⟨1, ⟨1, 2, 3, 4, 5, 6⟩⟩) := by decide

/-- R170, R174. -/
theorem test_decode_op_retrieve_param : frame 3 ⟨0xA2, 2, 1, 2, 3, 4, 5, 6⟩
    = .ok (.opRetrieveParam 3 ⟨2, ⟨1, 2, 3, 4, 5, 6⟩⟩) := by decide

/-- R170, R174. -/
theorem test_decode_op_get_version : frame 4 ⟨0xB1, 0, 1, 2, 3, 4, 5, 6⟩
    = .ok (.opGetVersion 4 ⟨0, ⟨1, 2, 3, 4, 5, 6⟩⟩) := by decide

/-- R170, R174. -/
theorem test_decode_op_get_fault : frame 5 ⟨0xB2, 1, 1, 2, 3, 4, 5, 6⟩
    = .ok (.opGetFault 5 ⟨1, ⟨1, 2, 3, 4, 5, 6⟩⟩) := by decide

/-- R170, R174. -/
theorem test_decode_op_ack_fault : frame 6 ⟨0xB3, 2, 1, 2, 3, 4, 5, 6⟩
    = .ok (.opAckFault 6 ⟨2, ⟨1, 2, 3, 4, 5, 6⟩⟩) := by decide

/-- R170, R174. -/
theorem test_decode_op_retrieve_indicator : frame 1 ⟨0xB4, 0, 1, 2, 3, 4, 5, 6⟩
    = .ok (.opRetrieveIndicator 1 ⟨0, ⟨1, 2, 3, 4, 5, 6⟩⟩) := by decide

/-- V2.6, dec_control. -/
theorem test_decode_op_torque_ctrl : frame 2 ⟨0x93, 0x00, 0xF6, 0xFF, 0xFF, 0xFF, 0xFF, 0xFF⟩
    = .ok (.opTorqueCtrl 2 ⟨0, 0xF6, 65535, 4095, 4095⟩) := by decide

/-- V2.6, dec_control. -/
theorem test_decode_op_speed_ctrl : frame 1 ⟨0x94, 0x00, 0x00, 0x00, 0x00, 0x34, 0xAB, 0xCD⟩
    = .ok (.opSpeedCtrl 1 ⟨0, 0, 0, 0xB34, 0xCDA⟩) := by decide

/-- V1.3, the response of a position command. -/
theorem test_decode_op_position_ctrl : frame 6 ⟨0x95, 0x00, 0xF6, 0xFF, 0x7F, 0xFF, 0xF7, 0x7F⟩
    = .ok (.opPositionCtrl 6 ⟨0, 0xF6, 32767, 2047, 2047⟩) := by decide

/-- V2.3 and R150: what each rejected stream is rejected for. -/
theorem test_decode_rejects :
    packet [0x7E, 0x11, 0x00, 0x00, 0x00, 0x05, 0x00, 0x00, 0x00, 0x00, 0x01, 0x01, 0x01, 0xA1, 0xF2, 0xE5, 0x7F]
        = .error .crcError
      ∧ packet [0x7E, 0x11, 0x00, 0x00, 0x00, 0x05, 0x00, 0x00, 0x00, 0x00, 0x01, 0x01, 0xFE, 0xA1, 0xF2, 0xE5, 0x00]
        = .error .endMarkerError
      ∧ packet [0x7E, 0x11, 0x00, 0x00, 0x00, 0x05, 0x00, 0x00, 0x00, 0x00, 0x01, 0x01, 0xFF, 0xA1, 0xF2, 0xE5, 0x00]
        = .error .crcError
      ∧ packet [0x7E, 0x10, 0x00, 0x00, 0x00, 0x00, 0x00, 0x00, 0x00, 0x00, 0x01, 0x01] = .error .lengthError
      ∧ packet [0x7E, 0x01, 0x80, 0x00, 0x00, 0x00, 0x00, 0x00, 0x00, 0x00, 0x01, 0x01] = .error .lengthError
      ∧ packet [0x7E, 0x15, 0x00, 0x00, 0x00, 0x00, 0x00, 0x00, 0x00, 0x00, 0x01, 0x08] = .error .sizeError
      ∧ packet [0x7E, 0x28, 0x00, 0x00, 0x00, 0x00, 0x00, 0x00, 0x00, 0x00, 0x01, 0x07] = .error .sizeError
      ∧ packet [0x00, 0x11, 0x22] = .error .noStartMarker
      ∧ packet [0x7E, 0x11, 0x00] = .error .truncated
      ∧ packet [0x7E, 0x11, 0x00, 0x00, 0x00, 0x05, 0x00, 0x00, 0x00, 0x00, 0x01, 0x01, 0xFE, 0xA1, 0xF2, 0xE5, 0x7F,
          0x7E] = .error .trailingBytes
      ∧ frame 1 ⟨0x10, 0, 1, 2, 3, 4, 5, 6⟩ = .error .unknownOpcode := by decide +kernel

/-! One step at a time. -/

/-- The next state of a result; the reset state where there is none. -/
def after (r : Result) : State :=
  match r with
  | .next t => t
  | .fault _ => State.reset
  | .refused _ => State.reset

/-- Whether a result is a next state. -/
def isNext (r : Result) : Bool :=
  match r with
  | .next _ => true
  | .fault _ => false
  | .refused _ => false

theorem next_of {r : Result} (h : isNext r = true) : r = .next (after r) := by
  cases r <;> simp_all [isNext, after]

/-- The bytes waiting in RB.TX. -/
def sentBytes (s : State) : List Byte := Ring.content s.cfg.txCap s.tx

/-- The reply frame of V2.5 to a packet with sequence number 9, from 0: its first eleven bytes are the same in every row. -/
def reply9 (kind answered c0 c1 c2 c3 : Byte) : List Byte :=
  [0x7E, 0x16, 0, 0, 0, 0, 0, 0, 0, 1, 0, kind, 9, 0, 0, 0, answered, c0, c1, c2, c3, 0x7F]

/-- The header of V2.5's packets. -/
def h9 : Header := ⟨9, 0, 1⟩

/-- The start state of V2.5. -/
def playingState : State :=
  { State.reset with
    playing := true
    arrayLength := 10
    trajIndex := 5
    axes := Six.replicate
      { Axis.reset Config.default with calibrated := true, p := 0x42C80000, vLim := 0x41400000 } }

/-- `playing`, `trajIndex`, the gains of axis 5, and what was sent. -/
def view (r : Result) : Bool × U32 × F32 × F32 × List Byte :=
  ((after r).playing, (after r).trajIndex, ((after r).axis 5).p, ((after r).axis 5).vLim, sentBytes (after r))

/-- V2.1. -/
theorem test_crc32 : crc32 [0x31, 0x32, 0x33, 0x34, 0x35, 0x36, 0x37, 0x38, 0x39] = 0xCBF43926
    ∧ crc32 [] = 0 ∧ crc32 [0x00] = 0xD202EF8D ∧ crc32 [0xFF] = 0xFF000000 ∧ crc32 [0x7E] = 0x65BFB3B6
    ∧ crc32Update 0xFFFFFFFF 0x7E = 0x9A404C49 := by decide +kernel

/-- V1.4: a write that wraps, a partial write, and the order of what is read. -/
theorem test_ring_fifo :
    let r := (Ring.writeBytes 4 (Ring.readBytes 4 (Ring.writeBytes 4 Ring.empty [9, 9, 9]).1 3).2 [1, 2, 3]).1
    (r.tail = 3 ∧ r.head = 2 ∧ r.count = 3 ∧ Memory.readBytes r.mem 0 4 = [2, 3, 9, 1] ∧ Ring.content 4 r = [1, 2, 3])
      ∧ (Ring.readBytes 4 r 2).1 = [1, 2] ∧ (Ring.readBytes 4 r 2).2.tail = 1
      ∧ (Ring.writeBytes 4 r [0x0A, 0x0B]).2 = 1
      ∧ Ring.content 4 (Ring.writeBytes 4 r [0x0A, 0x0B]).1 = [1, 2, 3, 0x0A]
      ∧ (Ring.push 4 (Ring.writeBytes 4 r [0x0A, 0x0B]).1 0x0C).2 = false := by decide

/-- V1.5. -/
theorem test_consume_until :
    let run (bs : List Byte) :=
      let c := Ring.consumeUntil 8 (Ring.writeBytes 8 Ring.empty bs).1 0x7E
      (c.1, c.2.1, Ring.content 8 c.2.2)
    run [0x0A, 0x0B, 0x7E, 0x0C, 0x0D] = (true, 2, [0x0C, 0x0D]) ∧ run [1, 2, 3] = (false, 3, [])
      ∧ run [] = (false, 0, []) ∧ run [0x7E, 0x7E, 1] = (true, 0, [0x7E, 1]) ∧ run [0x7E] = (true, 0, []) := by decide

/-- R101: what an unlisted byte reads as is not stored, and a second write replaces the first. -/
theorem test_memory_canonical : Memory.write (Memory.write (Memory.write [] 5 7) 2 9) 5 0 = [(2, 9)]
    ∧ Memory.write [(2, 9)] 2 1 = [(2, 1)] ∧ Memory.read [(2, 9)] 3 = 0 := by decide

/-- V1.3, V2.6: request frames; bits 31..24 of a duration are dropped. -/
theorem test_request_frames :
    encRequest Config.default (.speedCtrl 0x3F800000 0xFFFFFFFF) = some ⟨0x94, 0, 0, 0x80, 0x3F, 0xFF, 0xFF, 0xFF⟩
      ∧ encRequest Config.default (.positionCtrl 0 1000) = some ⟨0x95, 0, 0, 0, 0, 0xE8, 0x03, 0x00⟩
      ∧ encRequest Config.default (.torqueCtrl 0xC3610000 0) = some ⟨0x93, 0, 0, 0x61, 0xC3, 0, 0, 0⟩
      ∧ encRequest Config.default (.ackFault [1, 2, 3, 4, 5, 6, 7]) = some ⟨0xB3, 1, 2, 3, 4, 5, 6, 7⟩
      ∧ encRequest Config.default .getVersion = some ⟨0xB1, 0, 0, 0, 0, 0, 0, 0⟩ := by decide

/-- V2.6: the affine decode of the codes 0, 1, middle and last, with their rounding. -/
theorem test_u2f :
    (u2f 0 0xC1480000 0x41480000 16 = 0xC1480000 ∧ u2f 1 0xC1480000 0x41480000 16 = 0xC147FE70
      ∧ u2f 32767 0xC1480000 0x41480000 16 = 0xB9480000 ∧ u2f 65535 0xC1480000 0x41480000 16 = 0x41480000)
      ∧ (u2f 1 0xC2820000 0x42820000 12 = 0xC281EFBF ∧ u2f 2048 0xC2820000 0x42820000 12 = 0x3C821000
        ∧ u2f 4094 0xC2820000 0x42820000 12 = 0x4281EFBE)
      ∧ u2f 4094 0xC3610000 0x43610000 12 = 0x4360E3DE := by decide +kernel

/-- V2.6: the driver's affine encode truncates, clamps, and sends a NaN to 0. -/
theorem test_f2u :
    f2u 0 0xC1480000 0x41480000 16 = 32767 ∧ f2u 0x3F800000 0xC1480000 0x41480000 16 = 35388
      ∧ f2u 0x41500000 0xC1480000 0x41480000 16 = 65535 ∧ f2u 0xC2C80000 0xC1480000 0x41480000 16 = 0
      ∧ f2u 0x7FC00000 0xC1480000 0x41480000 16 = 0 ∧ f2u 0x3F800000 0xC2820000 0x42820000 12 = 2079
      ∧ f2u 0x3F800000 0xC3610000 0x43610000 12 = 2056 := by decide +kernel

/-- R13: rounding to nearest with ties to even, subnormals, overflow, and −0. -/
theorem test_float_rounding :
    F32.add 0x4B800000 0x3F800000 = 0x4B800000 ∧ F32.add 0x4B800001 0x3F800000 = 0x4B800002
      ∧ F32.mul 0x00800000 0x3F000000 = 0x00400000 ∧ F32.mul 0x00000001 0x3F000000 = 0
      ∧ F32.mul 0x7F7FFFFF 0x40000000 = 0x7F800000 ∧ F32.div 0x3F800000 0x40400000 = 0x3EAAAAAB
      ∧ F32.sub 0x3F800000 0x3F800000 = 0 ∧ F32.mul 0x80000000 0x40A00000 = 0x80000000
      ∧ F32.lt 0x80000000 0 = false ∧ F32.le 0x7FC00000 0x7FC00000 = false := by decide +kernel

/-- V2.5, 01. -/
theorem test_heartbeat : view (exec (.heartbeat h9 []) playingState)
    = (true, 5, 0x42C80000, 0x41400000, reply9 0x08 0x01 0x36 0x40 0x27 0x03) := by decide +kernel

/-- V2.5, 02: START_MOTOR queued, no calibration requested of a calibrated axis. -/
theorem test_enable :
    let r := exec (.enable h9 []) playingState
    view r = (true, 5, 0x42C80000, 0x41400000, reply9 0x08 0x02 0x8C 0x11 0x2E 0x9A)
      ∧ ((after r).axis 5).txq = [⟨0x91, 0, 0, 0, 0, 0, 0, 0⟩] ∧ ((after r).axis 5).doCalibration = false := by
  decide +kernel

/-- V3 P3: from reset, ENABLE marks every axis for calibration. -/
theorem test_enable_uncalibrated :
    let a := (after (exec (.enable ⟨1, 0, 1⟩ []) State.reset)).axis 3
    a.stage = 255 ∧ a.doCalibration = true ∧ a.armed = false := by decide +kernel

/-- V2.5, 03. -/
theorem test_play : view (exec (.play h9 []) playingState)
    = (true, 5, 0x42C80000, 0x41400000, reply9 0x08 0x03 0x1A 0x21 0x29 0xED) := by decide +kernel

/-- V3 P2: PLAY from reset selects the engaged gains. -/
theorem test_play_engages :
    let t := after (exec (.play ⟨2, 0, 1⟩ []) State.reset)
    t.playing = true ∧ (t.axis 0).p = 0x42C80000 ∧ (t.axis 0).vLim = 0x41400000 := by decide +kernel

/-- V2.5, 04. -/
theorem test_pause : view (exec (.pause h9 []) playingState)
    = (false, 5, 0x42C80000, 0x41400000, reply9 0x08 0x04 0xB9 0xB4 0x4D 0x73) := by decide +kernel

/-- V2.5, 05. -/
theorem test_stop : view (exec (.stop h9 []) playingState)
    = (false, 0, 0x40A00000, 0x3EA8F5C3, reply9 0x08 0x05 0x2F 0x84 0x4A 0x04) := by decide +kernel

/-- V2.5, 06. -/
theorem test_disable :
    let r := exec (.disable h9 []) playingState
    view r = (false, 5, 0x40A00000, 0x3EA8F5C3, reply9 0x08 0x06 0x95 0xD5 0x43 0x9D)
      ∧ ((after r).axis 5).txq = [⟨0x92, 0, 0, 0, 0, 0, 0, 0⟩] := by decide +kernel

/-- V2.5, 07: an empty UPLOAD. -/
theorem test_upload_empty :
    let r := exec (.upload h9 []) playingState
    view r = (true, 0, 0x42C80000, 0x41400000, reply9 0x08 0x07 0x03 0xE5 0x44 0xEA)
      ∧ (after r).arrayLength = 0 := by decide +kernel

/-- V1.7, 3: one row more than TRAJ_ROWS, here with TRAJ_ROWS = 1, is answered with NAK, and nothing is committed. -/
theorem test_upload_beyond_capacity :
    let s := { playingState with cfg := { Config.default with trajRows := 1 }, arrayLength := 1, trajIndex := 0 }
    let t := after (exec (.upload h9 [Six.replicate 0x01010101, Six.replicate 0x01010101]) s)
    t.arrayLength = 1 ∧ t.traj = [] ∧ t.counters.uploadNakCount = 1 ∧ (sentBytes t).getD 11 0 = 0x09 := by
  decide +kernel

/-- V2.5, 08, 09, 0F, 10: no action and no reply. -/
theorem test_reports_ignored :
    exec (.ack h9 0 0) playingState = .next playingState ∧ exec (.nak h9 0 0) playingState = .next playingState
      ∧ exec (.feedback h9 Feedback.zero) playingState = .next playingState
      ∧ exec (.info h9 []) playingState = .next playingState := ⟨rfl, rfl, rfl, rfl⟩

/-- V2.5, 0A. -/
theorem test_reset_message : view (exec (.reset h9 []) playingState)
    = (false, 0, 0x40A00000, 0x3EA8F5C3, reply9 0x08 0x0A 0xBE 0x99 0xF5 0x94) := by decide +kernel

/-- V2.5, 0B. -/
theorem test_quit : view (exec (.quit h9 []) playingState)
    = (false, 5, 0x40A00000, 0x3EA8F5C3, reply9 0x08 0x0B 0x28 0xA9 0xF2 0xE3) := by decide +kernel

/-- V2.5, 0C. -/
theorem test_connect : view (exec (.connect h9 []) playingState)
    = (true, 5, 0x42C80000, 0x41400000, reply9 0x08 0x0C 0x8B 0x3C 0x96 0x7D) := by decide +kernel

/-- V2.5, 0D. -/
theorem test_disconnect : view (exec (.disconnect h9 []) playingState)
    = (false, 5, 0x40A00000, 0x3EA8F5C3, reply9 0x08 0x0D 0x1D 0x0C 0x91 0x0A) := by decide +kernel

/-- V2.5, 0E: MOVE while playing. -/
theorem test_move_rejected :
    let r := exec (.move h9 (Six.replicate 0x3F000000)) playingState
    view r = (true, 5, 0x42C80000, 0x41400000, reply9 0x09 0x0E 0x02 0x8E 0xC4 0x58)
      ∧ (after r).counters.moveNakCount = 1 ∧ ((after r).axis 5).setPoint = 0 := by decide +kernel

/-- V2.5, more MOVE vectors: a NaN is discarded, a calibrating axis keeps its setpoint, an angle is clamped, and the
direction and offset apply. -/
theorem test_move :
    let s : State := { State.reset with
      cfg := { Config.default with direction := ⟨.plus, .plus, .plus, .minus, .plus, .plus⟩ }
      axes := ⟨Axis.reset Config.default, { Axis.reset Config.default with doCalibration := true },
        Axis.reset Config.default, { Axis.reset Config.default with offset := 0x3E000000, calibrated := true },
        Axis.reset Config.default, Axis.reset Config.default⟩ }
    let r := exec (.move h9 ⟨0x7FC00000, 0x3F000000, 0x40400000, 0x3F000000, 0xC0000000, 0x3F000000⟩) s
    (after r).axes.map Axis.setPoint = ⟨0, 0, 0x3FC90FDB, 0xBEC00000, 0xBFC90FDB, 0x3F000000⟩
      ∧ sentBytes (after r) = reply9 0x08 0x0E 0xA7 0x5D 0x98 0x93 := by decide +kernel

/-- V2.5, FF. -/
theorem test_unknown :
    let t := after (exec (.unknown h9 0xFF []) playingState)
    t.counters.unknownMsgCount = 1 ∧ sentBytes t = [] ∧ t.playing = true := by decide +kernel

/-- V2.4: a frame that does not fit is written in part; the sequence number wraps. -/
theorem test_partial_write :
    let tx := (Ring.writeBytes 1024 Ring.empty (List.replicate 1010 0)).1
    let t := after (exec (.heartbeat ⟨1, 0, 1⟩ []) { State.reset with tx := tx, txSeq := 0xFFFFFFFF })
    t.tx.count = 1024 ∧ t.counters.txTruncCount = 1 ∧ t.txSeq = 0
      ∧ Memory.readBytes t.tx.mem 1010 14
        = [0x7E, 0x16, 0, 0, 0, 0xFF, 0xFF, 0xFF, 0xFF, 0x01, 0x00, 0x08, 0x01, 0x00] := by decide +kernel

/-! Motor frames received, with `tickCount = 7` (V2.7). -/

def sevenTicks : State := { State.reset with tickCount := 7 }

/-- V2.7, `91 00`: armed, with a zero-velocity command queued. -/
theorem test_start_reply :
    let a := (after (exec (.opStartMotor 1 ⟨0, Six.replicate 0⟩) sevenTicks)).axis 0
    a.rxTs = 7 ∧ a.newTelemetry = true ∧ a.armed = true ∧ a.txq = [⟨0x94, 0, 0, 0, 0, 0, 0, 0⟩]
      ∧ a.rxFrame = ⟨0x91, 0, 0, 0, 0, 0, 0, 0⟩ := by decide +kernel

/-- V2.7, `91 05`: counted, not armed. -/
theorem test_start_reply_failed :
    let a := (after (exec (.opStartMotor 1 ⟨5, Six.replicate 0⟩) sevenTicks)).axis 0
    a.rxTs = 7 ∧ a.newTelemetry = true ∧ a.motorErrCount = 1 ∧ a.armed = false ∧ a.txq = [] := by decide +kernel

/-- V2.7, `92 00` for id 2. -/
theorem test_stop_reply :
    let s := sevenTicks.modifyAxis 1 fun a => { a with armed := true }
    ((after (exec (.opStopMotor 2 ⟨0, Six.replicate 0⟩) s)).axis 1).armed = false := by decide +kernel

/-- V2.7, `94 00 19 00 80 00 08 80`. -/
theorem test_speed_reply :
    let a := (after (exec (.opSpeedCtrl 1 ⟨0, 25, 0x8000, 0x800, 0x800⟩) sevenTicks)).axis 0
    a.temperature = 25 ∧ a.theta = 0x39480000 ∧ a.omega = 0x3C821000 ∧ a.tau = 0x3D611000
      ∧ a.rxFrame = ⟨0x94, 0x00, 0x19, 0x00, 0x80, 0x00, 0x08, 0x80⟩ := by decide +kernel

/-- V2.7, `95 01 …`: a failed control reply leaves the measured values. -/
theorem test_position_reply_failed :
    let a := (after (exec (.opPositionCtrl 1 ⟨1, 25, 0x8000, 0x800, 0x800⟩) sevenTicks)).axis 0
    a.motorErrCount = 1 ∧ a.theta = 0 ∧ a.omega = 0 ∧ a.tau = 0 ∧ a.temperature = 0 := by decide +kernel

/-- V2.6, the last codes of a torque reply. -/
theorem test_torque_reply :
    let a := (after (exec (.opTorqueCtrl 6 ⟨0, 0xF6, 65535, 4095, 4095⟩) sevenTicks)).axis 5
    a.theta = 0x41480000 ∧ a.omega = 0x42820000 ∧ a.tau = 0x43610000 ∧ a.temperature = 0xF6 := by decide +kernel

/-- V2.7, `B1 00 …`, and the other ten kinds that are kept raw: the frame is rebuilt under the kind's own opcode. -/
theorem test_raw_replies : ∀ k ∈
    [(Instr.opResetConfig 3, (0x81 : Byte)), (.opRefreshConfig 3, 0x82), (.opModifyConfig 3, 0x83),
      (.opRetrieveConfig 3, 0x84), (.opStopCtrl 3, 0x97), (.opModifyParam 3, 0xA1), (.opRetrieveParam 3, 0xA2),
      (.opGetVersion 3, 0xB1), (.opGetFault 3, 0xB2), (.opAckFault 3, 0xB3), (.opRetrieveIndicator 3, 0xB4)],
    (after (exec (k.1 ⟨0, ⟨1, 2, 3, 4, 5, 6⟩⟩) sevenTicks)).axis 2
      = { Axis.reset Config.default with rxFrame := ⟨k.2, 0, 1, 2, 3, 4, 5, 6⟩, rxTs := 7, newTelemetry := true } := by
  decide +kernel

/-- V2.7, id 7. -/
theorem test_unknown_identifier :
    let t := after (exec (.opStartMotor 7 ⟨0, Six.replicate 0⟩) sevenTicks)
    t.counters.canRxUnknownIdCount = 1 ∧ t.axes = sevenTicks.axes := by decide +kernel

/-! The axis controller (V2.7). -/

/-- Debounce with DEBOUNCE_N = 3: the samples 1, 1, 1 and 1, 0. -/
theorem test_debounce :
    let d (l : Bool) (a : Axis) := a.debounce Config.default l
    let a := Axis.reset Config.default
    ((d true a).sw, (d true a).debCount) = (false, 1)
      ∧ ((d true (d true a)).sw, (d true (d true a)).debCount) = (false, 2)
      ∧ ((d true (d true (d true a))).sw, (d true (d true (d true a))).debCount) = (true, 0)
      ∧ ((d false (d true a)).sw, (d false (d true a)).debCount) = (false, 0) := by decide

/-- One calibration step from stage `n` of an axis altered by `f`, direction +1. -/
def calFrom (n : Byte) (f : Axis → Axis) : Option Axis :=
  Axis.calibrate Config.default .plus { f (Axis.reset Config.default) with stage := n, doCalibration := true }

/-- Stages 255, 0, 1 and 2. -/
theorem test_calibration_first_half :
    ((calFrom 255 fun a => { a with theta := 0x3E800000 }).map fun a => (a.setPoint, a.stage)) = some (0x3E800000, 0)
      ∧ ((calFrom 0 fun a => { a with setPoint := 0x3E800000 }).map fun a => (a.setPoint, a.stage))
        = some (0x3E808000, 0)
      ∧ ((calFrom 0 fun a => { a with sw := true, dwell := 7 }).map fun a => (a.stage, a.dwell)) = some (1, 0)
      ∧ ((calFrom 1 fun a => { a with dwell := 99 }).map fun a => (a.stage, a.dwell)) = some (2, 100)
      ∧ ((calFrom 1 fun a => { a with dwell := 98 }).map fun a => (a.stage, a.dwell)) = some (1, 99)
      ∧ ((calFrom 2 fun a => { a with sw := true, setPoint := 0x3E808000 }).map Axis.setPoint) = some 0x3E800000
      ∧ ((calFrom 2 fun a => { a with theta := 0x3F000000 }).map fun a => (a.angle1, a.stage))
        = some (0x3F000000, 3) := by decide +kernel

/-- Stages 3, 4, 5 and 6, and the closed gate. -/
theorem test_calibration_second_half :
    ((calFrom 3 fun a => a).map Axis.setPoint) = some 0xBA800000
      ∧ ((calFrom 3 fun a => { a with sw := true }).map Axis.stage) = some 4
      ∧ ((calFrom 4 fun a => { a with sw := true, setPoint := 0xBA800000 }).map Axis.setPoint) = some 0
      ∧ ((calFrom 4 fun a => { a with angle1 := 0x3F000000, theta := 0xBF000000 }).map
          fun a => (a.angle2, a.offset, a.stage)) = some (0xBF000000, 0, 5)
      ∧ ((calFrom 5 fun a => { a with setPoint := 0x3F000000 }).map Axis.setPoint) = some 0x3EFF8000
      ∧ ((calFrom 5 fun a => { a with setPoint := 0xBF000000 }).map Axis.setPoint) = some 0xBEFF8000
      ∧ ((calFrom 5 fun a => { a with setPoint := 0x3A800000 }).map Axis.stage) = some 6
      ∧ ((calFrom 6 fun a => a).map fun a => (a.calibrated, a.doCalibration, a.stage)) = some (true, false, 0)
      ∧ ((calFrom 6 fun a => { a with calibrated := true }).map Axis.stage) = some 6 := by decide +kernel

/-- The frame that the PD step of an armed axis queues. -/
def pdFrame (setPoint theta omega p d vLim : F32) : Option Frame :=
  (Axis.pdIssue Config.default
    { Axis.reset Config.default with armed := true, setPoint, theta, omega, p, d, vLim }).txq.head?

/-- PD and clamp: both clamps, an inexact product, ∞·0, and the damping term. -/
theorem test_pd :
    pdFrame 0x3F800000 0x3F000000 0 0x40A00000 0 0x3EA8F5C3 = some ⟨0x94, 0xC3, 0xF5, 0xA8, 0x3E, 0, 0, 0⟩
      ∧ pdFrame 0x3F004189 0x3F000000 0 0x40A00000 0 0x3EA8F5C3 = some ⟨0x94, 0x80, 0xD6, 0xA3, 0x3B, 0, 0, 0⟩
      ∧ pdFrame 0 0x3F800000 0 0x40A00000 0 0x3EA8F5C3 = some ⟨0x94, 0xC3, 0xF5, 0xA8, 0xBE, 0, 0, 0⟩
      ∧ pdFrame 0 0 0x40000000 0x40A00000 0x3F000000 0x3EA8F5C3 = some ⟨0x94, 0xC3, 0xF5, 0xA8, 0xBE, 0, 0, 0⟩
      ∧ pdFrame 0x80000000 0 0 0x40A00000 0 0x3EA8F5C3 = some ⟨0x94, 0, 0, 0, 0x80, 0, 0, 0⟩ := by decide +kernel

/-- V2.7: a velocity that is a NaN is sent as 0.0, whichever NaN it is. -/
theorem test_pd_nan : clampVelocity 0x3EA8F5C3 0x7FC00000 = 0 ∧ clampVelocity 0x3EA8F5C3 0xFF800001 = 0 := by decide

/-- Snapshot 2: direction −1 and offset 0.125. -/
theorem test_snapshot :
    let a := { Axis.reset Config.default with
      offset := 0x3E000000, theta := 0x3F000000, setPoint := 0xBEC00000, omega := 0x40000000, tau := 0x3F800000
      calibrated := true }
    feedbackToBytes (a.snapshot 0 .minus)
      = [0x00, 0xFF, 0x02, 0x00, 0x00, 0x00, 0xC0, 0xBE, 0x00, 0x00, 0x00, 0xC0, 0x00, 0x00, 0x80, 0xBF, 0x00, 0x00,
        0x00, 0x3F, 0x00, 0x00, 0x00, 0x00, 0x00, 0x00, 0x00, 0x00] := by decide +kernel

/-- Snapshot 3: the TICK after a control reply of temperature 11 sends its FEEDBACK frame. -/
theorem test_tick_feedback :
    let s := after (exec (.opSpeedCtrl 1 ⟨0, 11, 32767, 2048, 2047⟩) State.reset)
    let t := after (step { s with pending := [.tick (Six.replicate false)] })
    (sentBytes t).take 16 = [0x7E, 0x2D, 0, 0, 0, 0, 0, 0, 0, 1, 0, 0x0F, 0, 0xFF, 0, 0x0B]
      ∧ (t.axis 0).newTelemetry = false ∧ t.tickCount = 1 ∧ t.pending = [] := by decide +kernel

/-- V3 P2, the second tick: 2.0 is clamped, and the index wraps. -/
theorem test_tick_playback :
    let s : State := { State.reset with
      playing := true, arrayLength := 2, trajIndex := 1
      traj := Memory.writeBytes [] 0 (rowsToBytes [⟨0x3F000000, 0, 0, 0, 0, 0⟩, ⟨0x40000000, 0xBE800000, 0, 0, 0, 0⟩])
      pending := [.tick (Six.replicate false)] }
    let t := after (step s)
    (t.axis 0).setPoint = 0x3FC90FDB ∧ (t.axis 1).setPoint = 0xBE800000 ∧ t.trajIndex = 0 := by decide +kernel

/-- V2.7: CAN_DRAIN sends the oldest frame and records it. -/
theorem test_can_drain :
    let s := { sevenTicks with slot := .canDrain }.modifyAxis 0 fun a =>
      { a with txq := [⟨0x91, 0, 0, 0, 0, 0, 0, 0⟩, ⟨0x94, 0, 0, 0, 0, 0, 0, 0⟩] }
    let t := after (step s)
    t.canOut = [(1, ⟨0x91, 0, 0, 0, 0, 0, 0, 0⟩)] ∧ (t.axis 0).txTs = 7
      ∧ (t.axis 0).txFrame = ⟨0x91, 0, 0, 0, 0, 0, 0, 0⟩ ∧ (t.axis 0).txq = [⟨0x94, 0, 0, 0, 0, 0, 0, 0⟩]
      ∧ t.slot = .rxPoll := by decide +kernel

/-! The main loop. -/

/-- The reset state with some bytes in RB.RX and PARSE_STEP next. -/
def parsing (bs : List Byte) : State :=
  { State.reset with rx := (Ring.writeBytes 1024 Ring.empty bs).1, slot := .parseStep }

/-- V2.2: RX_POLL takes what fits. -/
theorem test_rx_poll :
    let s := { State.reset with rx := ⟨[], 1020, 0, 1020⟩, rxIn := [1, 2, 3, 4, 5, 6, 7, 8, 9, 10] }
    (after (step s)).rx.count = 1024 ∧ (after (step s)).rxIn = [5, 6, 7, 8, 9, 10]
      ∧ (after (step s)).rx.mem = [(1020, 1), (1021, 2), (1022, 3), (1023, 4)] := by decide +kernel

/-- V2.3, garbage then a start marker, and only garbage. -/
theorem test_parse_scan :
    let t := after (step (parsing [0x00, 0x11, 0x22, 0x7E, 0x11]))
    let u := after (step (parsing [1, 2, 3]))
    (t.pstate = .awaitHeader ∧ t.counters.rxDiscardCount = 3 ∧ t.rx.count = 1 ∧ t.crc = 0x9A404C49)
      ∧ (u.pstate = .awaitStart ∧ u.counters.rxDiscardCount = 3 ∧ u.rx.count = 0) := by decide +kernel

/-- V2.3: the header of an ACK with four payload bytes; a short header waits. -/
theorem test_parse_header :
    let s (bs : List Byte) := { parsing bs with pstate := .awaitHeader }
    let t := after (step (s [0x15, 0, 0, 0, 0, 0, 0, 0, 0, 0x01, 0x08, 0x01]))
    (t.pstate = .awaitStart ∧ t.counters.rxSizeErrCount = 1 ∧ t.info = ⟨21, 0, 4, 0, 1, 8, false⟩ ∧ t.rx.count = 1)
      ∧ (after (step (s [0x11, 0, 0, 0, 5, 0, 0, 0, 0, 1]))).rx.count = 10 := by decide +kernel

/-- V2.3: the footer of HEARTBEAT seq 5 with a wrong CRC and a wrong end marker counts the CRC only (R450). -/
theorem test_parse_footer :
    let s (f : List Byte) := { parsing f with
      pstate := .awaitPayloadCrc, info := ⟨17, 5, 0, 0, 1, 1, false⟩
      crc := crc32Fold crc32Init [0x7E, 0x11, 0, 0, 0, 5, 0, 0, 0, 0, 1, 1] }
    let t := after (step (s [0xFF, 0xA1, 0xF2, 0xE5, 0x00]))
    let u := after (step (s [0xFE, 0xA1, 0xF2, 0xE5, 0x7F]))
    (t.pstate = .packetComplete ∧ t.info.isValid = false ∧ t.counters.rxCrcErrCount = 1 ∧ t.counters.rxEndErrCount = 0
        ∧ t.counters.lastExpectedCrc = 0xE5F2A1FF ∧ t.counters.lastComputedCrc = 0xE5F2A1FE)
      ∧ (u.info.isValid = true ∧ u.counters.rxOkCount = 1) := by decide +kernel

/-- A state whose parser holds a complete valid packet with no payload. -/
def completed (seq : U32) (m : Byte) (s : State) : State :=
  { s with slot := .parseStep, pstate := .packetComplete, info := ⟨17, seq, 0, 0, 1, m, true⟩ }

/-- V2.3, the first row: the PacketComplete step answers with the whole ACK frame. -/
theorem test_packet_complete :
    let t := after (step (completed 5 0x01 State.reset))
    sentBytes t = [0x7E, 0x16, 0, 0, 0, 0, 0, 0, 0, 1, 0, 8, 5, 0, 0, 0, 1, 0x37, 0xAD, 0xD7, 0xC6, 0x7F]
      ∧ t.pstate = .awaitStart ∧ t.slot = .canDrain := by decide +kernel

/-- V2.9: RESET leaves what power-on leaves. -/
theorem test_reset_event :
    step { playingState with pending := [.reset], tickCount := 9, txSeq := 3, pstate := .awaitHeader }
      = .next State.reset := by rfl

/-- The opcode table's selectors decode, and the next step runs them: an UPLOAD word empties the trajectory. -/
theorem test_table_words :
    (∀ w ∈ [1, 2, 3, 4, 5, 6, 7, 8, 9, 10, 11, 12, 13, 14, 15, 16, 255, 0x81, 0x82, 0x83, 0x84, 0x91, 0x92, 0x93, 0x94,
        0x95, 0x97, 0xA1, 0xA2, 0xB1, 0xB2, 0xB3, 0xB4],
      (decodeTableWord 8 w).isSome = true ∧ isNext (step (State.reset.withFetchWord 8 w)) = true)
      ∧ decodeTableWord 8 0x0E = some (.move ⟨0, 0, 0⟩ (Six.replicate 0))
      ∧ decodeTableWord 8 0x91 = some (.opStartMotor 1 ⟨0, Six.replicate 0⟩)
      ∧ (after (step (playingState.withFetchWord 8 0x07))).arrayLength = 0
      ∧ ((after (step (State.reset.withFetchWord 8 0x91))).axis 0).armed = true := by decide +kernel

/-! Witnesses: for each obligation with hypotheses, a concrete state and operands that meet them, clause by clause and on
the boundaries of each clause. -/

/-- A queued frame. -/
def someFrame : Frame := ⟨0x94, 0, 0, 0, 0, 0, 0, 0⟩

/-- Axes in every condition: queue full, one place left, at the end of calibration, in its dwell, armed with telemetry
waiting, and as after reset. -/
def mixedAxes : Six Axis :=
  let a := Axis.reset Config.default
  ⟨{ a with txq := [someFrame, someFrame, someFrame, someFrame] }, { a with txq := [someFrame, someFrame, someFrame] },
    { a with stage := 6, doCalibration := true }, { a with stage := 1, dwell := 99, doCalibration := true, debCount := 2 },
    { a with armed := true, calibrated := true, stage := 0, newTelemetry := true, p := 0x42C80000, vLim := 0x41400000 },
    a⟩

/-- The reset state with those axes, playing row 9 of ten, and RB.TX one byte short of an ACK frame. -/
def mixed : State :=
  { State.reset with
    playing := true, arrayLength := 10, trajIndex := 9, txSeq := 0xFFFFFFFF
    tx := ⟨[(0, 5)], 1003, 0, 1003⟩
    axes := mixedAxes }

/-- `mixed`, not playing. -/
def idle : State := { mixed with playing := false }

theorem test_inv_mixed : mixed.Inv := by constructor <;> decide +kernel

theorem test_inv_idle : idle.Inv := by constructor <;> decide +kernel

theorem test_inv_playing : playingState.Inv := by constructor <;> decide +kernel

/-- HeartbeatAndConnectAcknowledge, PlayEngagesEveryAxis, PauseKeepsIndexAndGains, StopAndResetMessageRewind and
QuitAndDisconnectStopPlayback: an ACK that fits RB.TX, and one that does not. -/
theorem test_witness_acknowledged_messages : playingState.Inv ∧ mixed.Inv
    ∧ 22 ≤ playingState.cfg.txCap - playingState.tx.count.toNat ∧ mixed.cfg.txCap - mixed.tx.count.toNat = 21 :=
  ⟨test_inv_playing, test_inv_mixed, by decide, by decide⟩

/-- EnableStartsAndRequestsCalibration, DisableStopsEveryAxis: a full queue, one place left, calibrated or not. -/
theorem test_witness_enable_disable : mixed.Inv
    ∧ (mixed.axis 0).txq.length = mixed.cfg.canTxqDepth ∧ (mixed.axis 1).txq.length + 1 = mixed.cfg.canTxqDepth
    ∧ (mixed.axis 4).calibrated = true ∧ (mixed.axis 5).calibrated = false :=
  ⟨test_inv_mixed, by decide, by decide, by decide, by decide⟩

/-- UploadCommitsRows: no row, and as many as there are. -/
theorem test_witness_upload_commits : mixed.Inv ∧ ([] : List Row).length ≤ mixed.cfg.trajRows
    ∧ mixed.cfg.trajRows < 2 ^ 32
    ∧ (List.replicate 1024 (Six.replicate (0x3F000000 : F32))).length = mixed.cfg.trajRows :=
  ⟨test_inv_mixed, by decide, by decide, List.length_replicate⟩

/-- UploadBeyondCapacityRejected: one row more. -/
theorem test_witness_upload_rejected :
    mixed.Inv ∧ (List.replicate 1025 (Six.replicate (0 : F32))).length = mixed.cfg.trajRows + 1 :=
  ⟨test_inv_mixed, List.length_replicate⟩

/-- MoveSetsSetpoints: an axis whose calibration owns the setpoint, a NaN, and an angle at and beyond the limit. -/
theorem test_witness_move : idle.Inv ∧ idle.playing = false
    ∧ ((idle.axis 2).doCalibration = true ∧ (idle.axis 2).calibrated = false) ∧ F32.isNaN 0x7FC00000 = true
    ∧ F32.lt idle.cfg.angleLimit 0x3FC90FDC = true ∧ F32.lt 0xBFC90FDC (F32.neg idle.cfg.angleLimit) = true
    ∧ F32.lt idle.cfg.angleLimit 0x3FC90FDB = false :=
  ⟨test_inv_idle, by decide, by decide, by decide, by decide, by decide, by decide⟩

/-- MoveRejectedWhilePlaying. -/
theorem test_witness_move_rejected : mixed.Inv ∧ mixed.playing = true := ⟨test_inv_mixed, by decide⟩

/-- RawRepliesOnlyRecorded, StopReplyDisarmsAxis, ControlRepliesStoreTelemetry, LaterReplyReplacesEarlier: the first and
the last axis. -/
theorem test_witness_replies : mixed.cfg.valid = true ∧ mixed.cfg.canId.get 0 = 1 ∧ mixed.cfg.canId.get 5 = 6
    ∧ (⟨0, Six.replicate 0⟩ : RawReply).result = mixed.cfg.resultSuccess
    ∧ (⟨0, 0xF6, 65535, 4095, 4095⟩ : ControlReply).result = mixed.cfg.resultSuccess := by decide +kernel

/-- StartReplyArmsAxis: a full queue and one place left. -/
theorem test_witness_start_reply : mixed.Inv ∧ mixed.cfg.canId.get 0 = 1 ∧ mixed.cfg.canId.get 1 = 2
    ∧ (⟨0, Six.replicate 0⟩ : RawReply).result = mixed.cfg.resultSuccess
    ∧ (mixed.axis 0).txq.length = mixed.cfg.canTxqDepth ∧ (mixed.axis 1).txq.length < mixed.cfg.canTxqDepth :=
  ⟨test_inv_mixed, by decide, by decide, by decide, by decide, by decide⟩

/-- FailedRepliesOnlyCounted. -/
theorem test_witness_failed_replies : mixed.cfg.valid = true ∧ mixed.cfg.canId.get 3 = 4
    ∧ (⟨1, Six.replicate 0⟩ : RawReply).result ≠ mixed.cfg.resultSuccess
    ∧ (⟨0xFF, 0, 0, 0, 0⟩ : ControlReply).result ≠ mixed.cfg.resultSuccess := by decide +kernel

/-- UnknownIdentifierDropped: the identifiers just beside those in use. -/
theorem test_witness_unknown_identifier :
    (∀ i, mixed.cfg.canId.get i ≠ 0) ∧ (∀ i, mixed.cfg.canId.get i ≠ 7) := by decide

/-- ReservedOpcodeRecordedRaw: the value between POSITION_CTRL and STOP_CTRL, for the last axis and for none. -/
theorem test_witness_reserved_opcode :
    let s (id : CanId) := { mixed with pending := [.canRx id ⟨0x96, 0, 0, 0, 0, 0, 0, 0⟩, .mainLoop] }
    ((s 6).cfg.valid = true ∧ (s 6).pending = .canRx 6 ⟨0x96, 0, 0, 0, 0, 0, 0, 0⟩ :: [.mainLoop]
        ∧ (0x96 : Byte) ∉ (s 6).cfg.op.toList ∧ (s 6).cfg.canId.get 5 = 6)
      ∧ ((s 7).cfg.valid = true ∧ (s 7).pending = .canRx 7 ⟨0x96, 0, 0, 0, 0, 0, 0, 0⟩ :: [.mainLoop]
        ∧ ∀ i, (s 7).cfg.canId.get i ≠ 7) := by decide +kernel

/-- StepRunsCompletedMessage: with the schedule at its end and with a main-loop entry. -/
theorem test_witness_step_message :
    let s := completed 5 0x03 mixed
    s.cfg.valid = true ∧ s.pending = [] ∧ { s with pending := [.mainLoop, .reset] }.pending = .mainLoop :: [.reset]
      ∧ s.slot = .parseStep ∧ s.pstate = .packetComplete ∧ s.info.isValid = true
      ∧ fetchMessage s = .ok (.play ⟨5, 0, 1⟩ [])
      ∧ fetchMessage { s with pending := [.mainLoop, .reset] } = .ok (.play ⟨5, 0, 1⟩ []) := by decide +kernel

/-- StepRunsReceivedReply. -/
theorem test_witness_step_reply :
    let s := { mixed with pending := [.canRx 9 ⟨0x92, 1, 0, 0, 0, 0, 0, 7⟩] }
    s.cfg.valid = true ∧ s.pending = .canRx 9 ⟨0x92, 1, 0, 0, 0, 0, 0, 7⟩ :: []
      ∧ decode s.cfg (.frame 9 ⟨0x92, 1, 0, 0, 0, 0, 0, 7⟩) = .ok (.opStopMotor 9 ⟨1, ⟨0, 0, 0, 0, 0, 7⟩⟩) := by
  decide +kernel

/-- InvalidPacketNotDispatched: each of the four parser states, and the packet that is not valid under both schedules. -/
theorem test_witness_invalid_packet :
    let s := { mixed with slot := .parseStep, pstate := .packetComplete, info := ⟨17, 5, 0, 0, 1, 5, false⟩ }
    (∀ p ∈ ([.awaitStart, .awaitHeader, .awaitPayloadCrc, .packetComplete] : List PState),
      parseStep { mixed with slot := .parseStep, pstate := p }
        = .next (after (parseStep { mixed with slot := .parseStep, pstate := p })))
      ∧ s.Inv ∧ s.pending = [] ∧ { s with pending := [.mainLoop, .reset] }.pending = .mainLoop :: [.reset]
      ∧ s.slot = .parseStep ∧ s.pstate = .packetComplete ∧ s.info.isValid = false := by
  refine ⟨fun p h => ?_, by constructor <;> decide +kernel, rfl, rfl, rfl, rfl, rfl⟩
  simp only [List.mem_cons, List.not_mem_nil, or_false] at h
  rcases h with rfl | rfl | rfl | rfl <;> exact next_of (by decide +kernel)

/-- InvalidParametersRefused: each of its clauses by a state of its own, on the boundary. -/
theorem test_witness_invalid_parameters :
    let c (f : Config → Config) : Config := (State.powerOn (f Config.default)).cfg
    (c fun d => { d with numAxes := 5 }).numAxes ≠ 6 ∧ (c fun d => { d with rxCap := 11 }).rxCap < 12
      ∧ (c fun d => { d with txCap := 44 }).txCap < 45
      ∧ (c fun d => { d with maxPacketSize := 16 }).maxPacketSize < (c fun d => { d with maxPacketSize := 16 }).overhead
      ∧ 2 ^ 32 - 1 < (c fun d => { d with maxPacketSize := 2 ^ 32 }).maxPacketSize
      ∧ (c fun d => { d with scratchWindow := 0 }).scratchWindow < 1 ∧ (c fun d => { d with trajRows := 0 }).trajRows < 1
      ∧ ¬ (c fun d => { d with msg := { d.msg with info := 1 } }).msg.toList.Nodup
      ∧ ¬ (c fun d => { d with op := { d.op with getFault := 0x81 } }).op.toList.Nodup
      ∧ (let e := c fun d => { d with posMin := d.posMax }; F32.lt e.posMin e.posMax = false)
      ∧ (let e := c fun d => { d with velMin := d.velMax }; F32.lt e.velMin e.velMax = false)
      ∧ (let e := c fun d => { d with curMin := d.curMax }; F32.lt e.curMin e.curMax = false)
      ∧ F32.lt 0 (c fun d => { d with angleLimit := 0 }).angleLimit = false
      ∧ F32.lt 0 (c fun d => { d with calStep := 0 }).calStep = false
      ∧ (let e := c fun d => { d with calTol := 0x39FFFFFF }; F32.le (F32.div e.calStep 0x40000000) e.calTol = false)
      ∧ (c fun d => { d with dwellTicks := 0 }).dwellTicks < 1 ∧ (c fun d => { d with debounceN := 0 }).debounceN < 1
      ∧ ¬ (c fun d => { d with canId := ⟨1, 2, 3, 4, 5, 1⟩ }).canId.toList.Nodup
      ∧ (c fun d => { d with canTxqDepth := 1 }).canTxqDepth < 2
      ∧ 2 ^ 24 ≤ (c fun d => { d with pdDuration := 0x01000000 }).pdDuration.toNat := by decide +kernel

/-- IllegalStageFaults: stage 7 on axis 5 after five axes that do not stop the TICK, and stage 254 on axis 0. -/
theorem test_witness_illegal_stage :
    let bad (n : Byte) : Axis := { Axis.reset Config.default with stage := n, doCalibration := true }
    let s : State := { idle with axes := { mixedAxes with x5 := bad 7 }, pending := [.tick (Six.replicate true)] }
    let u : State := { idle with axes := { mixedAxes with x0 := bad 254 }, pending := [.tick (Six.replicate true)] }
    (s.cfg.valid = true ∧ s.playing = false ∧ 7 ≤ (s.axis 5).stage.toNat ∧ (s.axis 5).stage.toNat ≤ 254
        ∧ (s.axis 5).doCalibration = true ∧ (s.axis 5).calibrated = false
        ∧ ∀ j, j < 5 → legalStage (s.axis j).stage = true ∨ (s.axis j).doCalibration = false
          ∨ (s.axis j).calibrated = true)
      ∧ (u.cfg.valid = true ∧ u.playing = false ∧ (u.axis 0).stage.toNat = 254 ∧ (u.axis 0).doCalibration = true
        ∧ (u.axis 0).calibrated = false ∧ ∀ j : Fin 6, ¬ j < 0) := by decide +kernel

/-- DecodeInvertsEncode: an instruction with the longest payload that its parameters admit, and a frame. -/
theorem test_witness_decode_encode : tiny.valid = true ∧ (Instr.info ⟨0xFFFFFFFF, 0xFF, 0xFF⟩ [1, 2, 3]).wellFormed tiny = true
    ∧ (Instr.unknown ⟨0, 0, 0⟩ 0x7E []).wellFormed tiny = true
    ∧ (Instr.opSpeedCtrl 0x7FF ⟨0xFF, 0xFF, 65535, 4095, 4095⟩).wellFormed tiny = true := by decide +kernel

/-- EncodeInvertsDecode: a packet and a frame that decode. -/
theorem test_witness_encode_decode : Config.default.valid = true
    ∧ decode Config.default (.packet [0x7E, 0x11, 0x00, 0x00, 0x00, 0x00, 0x00, 0x00, 0x00, 0x00, 0x01, 0x42, 0x73, 0x9E,
      0x1F, 0x58, 0x7F]) = .ok (.unknown ⟨0, 0, 1⟩ 0x42 [])
    ∧ decode Config.default (.frame 0x7FF ⟨0x94, 0xFF, 0, 0, 0, 0x34, 0xAB, 0xCD⟩)
      = .ok (.opSpeedCtrl 0x7FF ⟨0xFF, 0, 0, 0xB34, 0xCDA⟩) := by decide +kernel

/-- RequestFramesAsSpecified, its hypothesis on `arg`; MotorCodecRoundTrips, the largest duration. -/
theorem test_witness_requests : ([1, 2, 3, 4, 5, 6] : List Byte).length ≠ 7
    ∧ ([1, 2, 3, 4, 5, 6, 7, 8] : List Byte).length ≠ 7 ∧ (0x00FFFFFF : U32).toNat < 2 ^ 24 := by decide

/-- BuiltFramesDecode: MAX_PACKET_SIZE just large enough. -/
theorem test_witness_built_frames :
    let s := State.powerOn { Config.default with maxPacketSize := 45 }
    s.cfg.valid = true ∧ 45 ≤ s.cfg.maxPacketSize := by decide +kernel

/-- RingIsFifo: an empty buffer, a full one, and one that wraps. -/
theorem test_witness_ring : (4 : Nat) < 2 ^ 32 ∧ Ring.wf 4 Ring.empty = true ∧ Ring.wf 4 ⟨[(3, 1)], 2, 2, 4⟩ = true
    ∧ Ring.wf 4 ⟨[(0, 2), (3, 1)], 1, 3, 2⟩ = true := by decide

/-- RB.RX with room for three bytes. -/
def nearlyFull : State := { mixed with rx := ⟨[(1023, 7)], 1021, 0, 1021⟩, rxIn := [1, 2, 3, 4] }

/-- RxPollTakesWhatFits: more offered than fits, with the schedule at its end and with a main-loop entry. -/
theorem test_witness_rx_poll : nearlyFull.Inv ∧ nearlyFull.pending = [] ∧ nearlyFull.slot = .rxPoll
    ∧ nearlyFull.cfg.rxCap - nearlyFull.rx.count.toNat < nearlyFull.rxIn.length
    ∧ { nearlyFull with pending := [.mainLoop, .reset] }.Inv
    ∧ { nearlyFull with pending := [.mainLoop, .reset] }.pending = .mainLoop :: [.reset] :=
  ⟨by constructor <;> decide +kernel, by decide, by decide, by decide, by constructor <;> decide +kernel, rfl⟩

/-- TxDrainDeliversOldest: fewer bytes than there are, and more. -/
theorem test_witness_tx_drain :
    let s (k : Nat) := { mixed with pending := [.txDrain k] }
    ((s 8).Inv ∧ (s 8).pending = .txDrain 8 :: [] ∧ 8 < (s 8).tx.count.toNat)
      ∧ ((s 1004).Inv ∧ (s 1004).pending = .txDrain 1004 :: [] ∧ (s 1004).tx.count.toNat < 1004) :=
  ⟨⟨by constructor <;> decide +kernel, rfl, by decide⟩, by constructor <;> decide +kernel, rfl, by decide⟩

/-- CanDrainSendsOnePerAxis: axes with frames and axes without, under both schedules. -/
theorem test_witness_can_drain :
    let s := { mixed with slot := .canDrain }
    s.cfg.valid = true ∧ s.pending = [] ∧ { s with pending := [.mainLoop, .reset] }.pending = .mainLoop :: [.reset]
      ∧ s.slot = .canDrain ∧ (s.axis 0).txq.length = 4 ∧ (s.axis 5).txq = [] := by
  decide +kernel

/-- The parser states of `mixed`: RB.RX holds `bs`, laid across the end of the buffer. -/
def parserAt (p : PState) (info : PacketInfo) (bs : List Byte) : State :=
  { mixed with
    rx := (Ring.writeBytes 1024 ⟨[], 1020, 1020, 0⟩ bs).1, pstate := p, info := info, payloadRead := 0
    crc := crc32Update crc32Init 0x7E }

/-- ScanFindsStartMarker: junk before the marker, no junk, no marker, nothing. -/
theorem test_witness_scan :
    let s := parserAt .awaitStart PacketInfo.empty
    ((s [1, 2, 0x7E, 0x7E, 5]).Inv ∧ Ring.content 1024 (s [1, 2, 0x7E, 0x7E, 5]).rx = [1, 2] ++ 0x7E :: [0x7E, 5]
        ∧ (0x7E : Byte) ∉ ([1, 2] : List Byte))
      ∧ ((s [0x7E]).Inv ∧ Ring.content 1024 (s [0x7E]).rx = [] ++ 0x7E :: [])
      ∧ ((s [1, 2, 3, 4, 5]).Inv ∧ (0x7E : Byte) ∉ Ring.content 1024 (s [1, 2, 3, 4, 5]).rx)
      ∧ ((s []).Inv ∧ (0x7E : Byte) ∉ Ring.content 1024 (s []).rx) :=
  ⟨⟨by constructor <;> decide +kernel, by decide +kernel, by decide⟩,
    ⟨by constructor <;> decide +kernel, by decide +kernel⟩, ⟨by constructor <;> decide +kernel, by decide +kernel⟩,
    by constructor <;> decide +kernel, by decide +kernel⟩

/-- HeaderStepOutcomes: lengths 16, 17, 32768 and 32769, and an ACK with four payload bytes. -/
theorem test_witness_header : ∀ hb ∈
    ([[0x10, 0, 0, 0, 0, 0, 0, 0, 0, 1, 1], [0x11, 0, 0, 0, 0, 0, 0, 0, 0, 1, 1], [0, 0x80, 0, 0, 0, 0, 0, 0, 0, 1, 1],
      [1, 0x80, 0, 0, 0, 0, 0, 0, 0, 1, 1], [0x15, 0, 0, 0, 0, 0, 0, 0, 0, 1, 8]] : List (List Byte)),
    (parserAt .awaitHeader PacketInfo.empty (hb ++ [9])).Inv ∧ hb.length = 11
      ∧ Ring.content 1024 (parserAt .awaitHeader PacketInfo.empty (hb ++ [9])).rx = hb ++ [9] := by
  intro hb h
  simp only [List.mem_cons, List.not_mem_nil, or_false] at h
  rcases h with rfl | rfl | rfl | rfl | rfl <;> exact ⟨by constructor <;> decide +kernel, by decide, by decide +kernel⟩

/-- IncompletePacketWaits: ten header bytes; no byte while the payload is outstanding; four bytes of a footer. -/
theorem test_witness_incomplete :
    let s := parserAt .awaitHeader PacketInfo.empty [0x11, 0, 0, 0, 5, 0, 0, 0, 0, 1]
    let t := parserAt .awaitPayloadCrc ⟨20, 0, 3, 0, 1, 0x10, false⟩ []
    let u := parserAt .awaitPayloadCrc ⟨17, 5, 0, 0, 1, 1, false⟩ [0xFE, 0xA1, 0xF2, 0xE5]
    (s.Inv ∧ s.rx.count.toNat = 10)
      ∧ (t.Inv ∧ t.rx.count = 0 ∧ t.rx.count.toNat < t.cfg.footerSize ∧ t.payloadRead ≠ t.info.payloadSize)
      ∧ (u.Inv ∧ u.rx.count.toNat + 1 = u.cfg.footerSize ∧ u.payloadRead = u.info.payloadSize) :=
  ⟨⟨by constructor <;> decide +kernel, by decide⟩,
    ⟨by constructor <;> decide +kernel, by decide, by decide, by decide⟩,
    by constructor <;> decide +kernel, by decide, by decide⟩

/-- A parser in AwaitPayloadCrc of an UPLOAD of 42 rows, longer than RB.RX, `done` of its payload bytes read. -/
def uploading (done : U32) (bs : List Byte) : State :=
  { parserAt .awaitPayloadCrc ⟨1025, 5, 1008, 0, 1, 7, false⟩ bs with payloadRead := done }

/-- IncompletePacketWaits, one AwaitPayloadCrc step: less than a window, more than a window, the last byte with no footer,
with four bytes of one, and with a whole one. -/
theorem test_witness_payload_step : ∀ x ∈
    ([(0, [9, 9]), (0, List.replicate 65 9), (1007, [9]), (1007, [9, 1, 2, 3, 4]), (1007, [9, 1, 2, 3, 4, 0x7F, 5])] :
      List (U32 × List Byte)),
    (uploading x.1 x.2).Inv ∧ (uploading x.1 x.2).pstate = .awaitPayloadCrc := by
  intro x h
  simp only [List.mem_cons, List.not_mem_nil, or_false] at h
  rcases h with rfl | rfl | rfl | rfl | rfl <;> exact ⟨by constructor <;> decide +kernel, by decide⟩

/-- R250, R251, by hand: two bytes are taken and the step stays; of 65 bytes one window is taken; the last byte is taken
and a footer of four bytes waits; with its fifth the packet is complete, its wrong CRC counted, the byte behind it left. -/
theorem test_payload_steps :
    let t (done : U32) (bs : List Byte) := after (parseStep (uploading done bs))
    let a := t 0 [9, 9]
    let b := t 0 (List.replicate 65 9)
    let c := t 1007 [9, 1, 2, 3, 4]
    let d := t 1007 [9, 1, 2, 3, 4, 0x7F, 5]
    (a.pstate = .awaitPayloadCrc ∧ a.payloadRead = 2 ∧ a.rx.count = 0 ∧ Memory.readBytes a.pb 0 3 = [9, 9, 0])
      ∧ (b.pstate = .awaitPayloadCrc ∧ b.payloadRead = 64 ∧ b.rx.count = 1)
      ∧ (c.pstate = .awaitPayloadCrc ∧ c.payloadRead = 1008 ∧ c.rx.count = 4 ∧ Memory.read c.pb 1007 = 9)
      ∧ (d.pstate = .packetComplete ∧ d.rx.count = 1 ∧ d.info.isValid = false ∧ d.counters.rxCrcErrCount = 1
        ∧ d.counters.lastExpectedCrc = 0x04030201) := by decide +kernel

/-- The header bytes of a packet of length `len` with id `m`. -/
def headerBytes (len m : Byte) : List Byte := [len, 0, 0, 0, 5, 0, 0, 0, 0, 1, m]

/-- BufferedPacketVerdict, PacketStepCount: a packet that is valid, one with a wrong CRC, one with a wrong end marker, one
whose payload fills one window and takes a second for its last byte. -/
theorem test_witness_buffered :
    let s (hb pl ft : List Byte) := parserAt .awaitStart PacketInfo.empty ([0x7E] ++ hb ++ pl ++ ft ++ [0x7E])
    let good : List Byte := [0xFE, 0xA1, 0xF2, 0xE5, 0x7F]
    let badCrc : List Byte := [0x01, 0xA1, 0xF2, 0xE5, 0x7F]
    let badEnd : List Byte := [0xFE, 0xA1, 0xF2, 0xE5, 0x00]
    let long : List Byte := List.replicate 65 9
    ((s (headerBytes 17 1) [] good).Inv ∧ Buffered (s (headerBytes 17 1) [] good) (headerBytes 17 1) [] good [0x7E])
      ∧ ((s (headerBytes 17 1) [] badCrc).Inv
        ∧ Buffered (s (headerBytes 17 1) [] badCrc) (headerBytes 17 1) [] badCrc [0x7E])
      ∧ ((s (headerBytes 17 1) [] badEnd).Inv
        ∧ Buffered (s (headerBytes 17 1) [] badEnd) (headerBytes 17 1) [] badEnd [0x7E])
      ∧ ((s (headerBytes 82 16) long good).Inv
        ∧ Buffered (s (headerBytes 82 16) long good) (headerBytes 82 16) long good [0x7E])
      ∧ payloadSteps Config.default 0 = 1 ∧ payloadSteps Config.default 64 = 1 ∧ payloadSteps Config.default 65 = 2 := by
  refine ⟨⟨?_, ?_⟩, ⟨?_, ?_⟩, ⟨?_, ?_⟩, ⟨?_, ?_⟩, ?_⟩
  all_goals constructor <;> decide +kernel

/-- BufferedMessageExecuted: HEARTBEAT seq 5 (V2.3), a byte behind it. -/
theorem test_witness_buffered_message :
    let bs : List Byte := [0x7E, 0x11, 0, 0, 0, 5, 0, 0, 0, 0, 1, 1, 0xFE, 0xA1, 0xF2, 0xE5, 0x7F]
    let s := parserAt .awaitStart PacketInfo.empty (bs ++ [0x7E])
    s.Inv ∧ s.pstate = .awaitStart ∧ (Instr.heartbeat ⟨5, 0, 1⟩ []).wellFormed s.cfg = true
      ∧ encode s.cfg (.heartbeat ⟨5, 0, 1⟩ []) = .packet bs ∧ Ring.content s.cfg.rxCap s.rx = bs ++ [0x7E] :=
  ⟨by constructor <;> decide +kernel, by decide, by decide, by decide +kernel, by decide +kernel⟩

/-- DebounceFollowsAfterN: no sample, one short, and all of them. -/
theorem test_witness_debounce : Config.default.valid = true ∧ Config.default.debounceN < 2 ^ 8
    ∧ (Axis.reset Config.default).debCount = 0
    ∧ 0 ≤ Config.default.debounceN ∧ 2 < Config.default.debounceN ∧ 3 = Config.default.debounceN := by decide +kernel

/-- CalibrationStepByStage: the gate closed in its two ways, and open at each stage. -/
theorem test_witness_calibration_step :
    (Axis.reset Config.default).doCalibration = false
      ∧ ({ Axis.reset Config.default with doCalibration := true, calibrated := true } : Axis).calibrated = true
      ∧ ∀ n ∈ ([255, 0, 1, 2, 3, 4, 5, 6] : List Byte),
        let a : Axis := { Axis.reset Config.default with stage := n, doCalibration := true }
        a.doCalibration = true ∧ a.calibrated = false ∧ a.stage = n := by decide

/-- DwellLastsDwellTicks: no tick, and all hundred. -/
theorem test_witness_dwell :
    let a : Axis := { Axis.reset Config.default with stage := 1, doCalibration := true }
    Config.default.valid = true ∧ Config.default.dwellTicks < 2 ^ 32 ∧ a.doCalibration = true ∧ a.calibrated = false ∧ a.stage = 1 ∧ a.dwell = 0
      ∧ ([] : List Bool).length ≤ Config.default.dwellTicks
      ∧ (List.replicate 100 false).length = Config.default.dwellTicks := by decide +kernel

/-- A TICK about to happen with `a` as axis 2. -/
def ticking (a : Axis) : State := { idle with axes := { mixedAxes with x2 := a }, pending := [.tick (Six.replicate true)] }

/-- StageFollowsListedOrder: a TICK on each stage; ENABLE and RESET, each taking axis 3 out of its dwell to 255. -/
theorem test_witness_stage_order :
    (∀ n ∈ ([255, 0, 1, 2, 3, 4, 5, 6] : List Byte),
      let s := ticking { Axis.reset Config.default with stage := n, doCalibration := true }
      step s = .next (after (step s)))
      ∧ (let s := completed 5 0x02 mixed
         step s = .next (after (step s)) ∧ Dispatches s s.cfg.msg.enable ∧ (s.axis 3).calibrated = false
          ∧ (s.axis 3).stage = 1 ∧ ((after (step s)).axis 3).stage = 255)
      ∧ (let s := { mixed with pending := [.reset] }
         step s = .next (after (step s)) ∧ (s.axis 3).stage = 1 ∧ ((after (step s)).axis 3).stage = 255) := by
  refine ⟨fun n h => ?_, ⟨next_of (by decide +kernel), ⟨.inl rfl, rfl, rfl, rfl, rfl⟩, by decide, by decide,
    by decide +kernel⟩, next_of (by decide +kernel), by decide, by decide +kernel⟩
  simp only [List.mem_cons, List.not_mem_nil, or_false] at h
  rcases h with rfl | rfl | rfl | rfl | rfl | rfl | rfl | rfl <;> exact next_of (by decide +kernel)

/-- CalibratedSetOnlyAtFinish: the TICK that finishes, and RESET. -/
theorem test_witness_calibrated :
    let s := ticking { Axis.reset Config.default with stage := 6, doCalibration := true }
    let u := { playingState with pending := [.reset] }
    (step s = .next (after (step s)) ∧ ((after (step s)).axis 2).calibrated ≠ (s.axis 2).calibrated)
      ∧ (step u = .next (after (step u)) ∧ ((after (step u)).axis 2).calibrated ≠ (u.axis 2).calibrated) :=
  ⟨⟨next_of (by decide +kernel), by decide +kernel⟩, next_of (by decide +kernel), by decide +kernel⟩

/-- ClampsStayInRange: limits 0 and 0.33, and angles on and beyond ±ANGLE_LIMIT. -/
theorem test_witness_clamps : F32.le 0 0 = true ∧ F32.le 0 0x3EA8F5C3 = true ∧ Config.default.valid = true
    ∧ F32.isNaN 0x3FC90FDB = false ∧ F32.isNaN 0xFF800000 = false := by decide +kernel

/-- FeedbackSendsSnapshot, NoStopFromInvariant, EveryStepKeepsInvariant. -/
theorem test_witness_invariant : mixed.Inv ∧ step mixed = .next (after (step mixed)) :=
  ⟨test_inv_mixed, next_of (by decide +kernel)⟩

/-- Every axis with telemetry waiting, and room in RB.TX for one FEEDBACK packet and five bytes. -/
def reporting : State :=
  { mixed with
    tx := ⟨[(0, 5)], 974, 0, 974⟩, axes := mixedAxes.map fun a => { a with newTelemetry := true }
    pending := [.tick (Six.replicate true)] }

/-- TickDoesEachAxisInOrder: playing and not, with and without telemetry, and with six packets of which one fits. -/
theorem test_witness_tick :
    let s := { mixed with pending := [.tick (Six.replicate true)] }
    let u := { idle with pending := [.tick (Six.replicate true)] }
    (s.Inv ∧ s.pending = .tick (Six.replicate true) :: [] ∧ s.playing = true ∧ s.arrayLength ≠ 0
        ∧ (s.axis 4).newTelemetry = true ∧ (s.axis 5).newTelemetry = false)
      ∧ (u.Inv ∧ u.pending = .tick (Six.replicate true) :: [] ∧ u.playing = false)
      ∧ (reporting.Inv ∧ reporting.pending = .tick (Six.replicate true) :: []
        ∧ ∀ i, (reporting.axis i).newTelemetry = true) :=
  ⟨⟨by constructor <;> decide +kernel, rfl, by decide, by decide, by decide, by decide⟩,
    ⟨by constructor <;> decide +kernel, rfl, by decide⟩, by constructor <;> decide +kernel, rfl, by decide⟩

/-- R271, R382, by hand: of six packets of 45 bytes the first fits, with sequence 0xFFFFFFFF; five bytes of the second
follow; five are counted as truncated, and six sequence numbers are used. -/
theorem test_tick_reports :
    let t := after (step reporting)
    t.tx.count = 1024 ∧ t.counters.txTruncCount = 5 ∧ t.txSeq = 5
      ∧ ((sentBytes t).drop 974).take 13 = [0x7E, 0x2D, 0, 0, 0, 0xFF, 0xFF, 0xFF, 0xFF, 1, 0, 0x0F, 0]
      ∧ (sentBytes t).drop 1019 = [0x7E, 0x2D, 0, 0, 0] := by decide +kernel

/-- IdleTickOnlyCountsAndDebounces: right after reset. -/
theorem test_witness_idle_tick :
    let s := { State.reset with pending := [.tick (Six.replicate true)] }
    s.cfg.valid = true ∧ s.pending = .tick (Six.replicate true) :: [] ∧ s.playing = false
      ∧ ∀ i, (s.axis i).armed = false ∧ (s.axis i).newTelemetry = false ∧ (s.axis i).doCalibration = false := by
  decide +kernel

/-- TelemetryWrittenOnlyByCanRx: a TICK with telemetry waiting, and a main-loop event. -/
theorem test_witness_telemetry :
    let s := { mixed with pending := [.tick (Six.replicate true)] }
    (step s = .next (after (step s)) ∧ (∀ id f later, s.pending ≠ .canRx id f :: later)
        ∧ ∀ later, s.pending ≠ .reset :: later)
      ∧ (step mixed = .next (after (step mixed)) ∧ (∀ id f later, mixed.pending ≠ .canRx id f :: later)
        ∧ ∀ later, mixed.pending ≠ .reset :: later) := by
  refine ⟨⟨next_of (by decide +kernel), ?_, ?_⟩, next_of (by decide +kernel), ?_, ?_⟩ <;>
    simp [mixed, State.reset, State.powerOn]

/-- TrajectoryWrittenOnlyByUpload: an UPLOAD of one row. -/
theorem test_witness_trajectory :
    let s := { mixed with
      slot := .parseStep, pstate := .packetComplete, payloadRead := 24, info := ⟨41, 5, 24, 0, 1, 7, true⟩
      pb := Memory.writeBytes [] 0 (rowToBytes (Six.replicate 0x3F000000)) }
    step s = .next (after (step s)) ∧ (∀ later, s.pending ≠ .reset :: later)
      ∧ (after (step s)).traj ≠ s.traj ∧ (after (step s)).arrayLength ≠ s.arrayLength :=
  ⟨next_of (by decide +kernel), by simp [mixed, State.reset, State.powerOn], by decide +kernel, by decide +kernel⟩

/-- ParametersNeverChange, ResetEventRestoresPowerOn, PowerOnMeetsInvariant: RESET under parameters that are not the
default. -/
theorem test_witness_reset_event :
    let s := { State.powerOn tiny with pending := [.reset, .mainLoop], tickCount := 3 }
    s.cfg.valid = true ∧ s.pending = .reset :: [.mainLoop] ∧ step s = .next (after (step s)) :=
  ⟨by decide +kernel, rfl, next_of (by decide +kernel)⟩

end Sys2Proof.Tests
end

section
/-! PROOFS. The scope of the model (00_scope.md): which instances run at all. -/

namespace Sys2Proof.Machine

/-- R10: the parameters are checked before the schedule is looked at, so a refused instance runs no event. -/
theorem step_of_not_valid (s : State) (h : ¬ s.cfg.valid = true) : step s = .refused .parametersRefused := by
  simp only [step, nextEvent, if_neg h]

/-- Settles O25: a valid parameter set meets every constraint of R9, so each clause contradicts one of them. -/
theorem invalidParametersRefused : Obligations.InvalidParametersRefused := by
  intro s broken
  refine step_of_not_valid s fun hv => ?_
  obtain ⟨hAxes, hRx, -, hTx, -, hOverhead, hMax, hWindow, hRows, hMsg, hOp, hPos, hVel, hCur, hAngle, hStep, hTol,
    hDwell, hDebounce, hCanId, hTxq, hPd⟩ := (Config.valid_iff s.cfg).1 hv
  obtain h | h | h | h | h | h | h | h | h | h | h | h | h | h | h | h | h | h | h | h := broken
  · exact h hAxes
  · exact h.not_ge hRx
  · exact h.not_ge hTx
  · exact h.not_ge hOverhead
  · exact h.not_ge hMax
  · exact h.not_ge hWindow
  · exact h.not_ge hRows
  · exact h hMsg
  · exact h hOp
  · exact Bool.false_ne_true (h.symm.trans hPos)
  · exact Bool.false_ne_true (h.symm.trans hVel)
  · exact Bool.false_ne_true (h.symm.trans hCur)
  · exact Bool.false_ne_true (h.symm.trans hAngle)
  · exact Bool.false_ne_true (h.symm.trans hStep)
  · exact Bool.false_ne_true (h.symm.trans hTol)
  · exact h.not_ge hDwell
  · exact h.not_ge hDebounce
  · exact h hCanId
  · exact h.not_ge hTxq
  · exact h.not_gt hPd

end Sys2Proof.Machine
end

section
/-! PROOFS. One step, said once (R120, R121): `Occurs` lists what a step can be, and the inversions of `exec` say what a
dispatched message and a received reply can be. The whole-machine rules are case splits over these. -/

namespace Sys2Proof.Machine

open Sys2Proof.Laws

/-- The seventeen host messages, as against the sixteen motor frames. -/
def isHostMessage (i : Instr) : Bool :=
  match i with
  | .opResetConfig _ _ | .opRefreshConfig _ _ | .opModifyConfig _ _ | .opRetrieveConfig _ _ | .opStartMotor _ _
  | .opStopMotor _ _ | .opTorqueCtrl _ _ | .opSpeedCtrl _ _ | .opPositionCtrl _ _ | .opStopCtrl _ _
  | .opModifyParam _ _ | .opRetrieveParam _ _ | .opGetVersion _ _ | .opGetFault _ _ | .opAckFault _ _
  | .opRetrieveIndicator _ _ => false
  | _ => true

/-- A decoded message is a host message, and of the kind that its message id selects (R160, R400). -/
theorem decodeMessage_ok (c : Config) (hd : Header) (m : Byte) (pl : List Byte) (i : Instr)
    (h : decodeMessage c hd m pl = .ok i) : isHostMessage i = true ∧ rowSelector c i = m := by
  unfold decodeMessage at h
  obtain ⟨-, h⟩ | ⟨-, h⟩ := ite_eq_cases h
  · cases h
  iterate 16
    obtain ⟨hm, h⟩ | ⟨-, h⟩ := ite_eq_cases h
    · cases h; exact ⟨rfl, hm.symm⟩
  cases h
  exact ⟨rfl, rfl⟩

/-- A decoded frame is a motor frame (R170). -/
theorem decodeFrame_ok (c : Config) (id : CanId) (f : Frame) (i : Instr) (h : decodeFrame c id f = .ok i) :
    isHostMessage i = false := by
  unfold decodeFrame at h
  iterate 16
    obtain ⟨-, h⟩ | ⟨-, h⟩ := ite_eq_cases h
    · cases h; rfl
  cases h

/-- `s` with its next entry of the schedule consumed, where there is one (R121). -/
def State.consumed (s : State) : State := { s with pending := s.pending.tail }

/-- What a step from `s` can be, and the state it leaves: one event, with its entry of the schedule consumed. -/
inductive Occurs (s : State) : State → Prop
  | rxPoll : Occurs s { rxPoll s.consumed with slot := .parseStep }
  | scanned (hp : s.pstate = .awaitStart) : Occurs s { awaitStartStep s.consumed with slot := .canDrain }
  | headerRead (hp : s.pstate = .awaitHeader) : Occurs s { awaitHeaderStep s.consumed with slot := .canDrain }
  | payloadRead (hp : s.pstate = .awaitPayloadCrc) (hfit : s.payloadRead.toNat + drainSize s ≤ s.cfg.maxPayload) :
      Occurs s { footerStep (drainPayload s.consumed) with slot := .canDrain }
  | dropped : Occurs s { s.consumed with pstate := .awaitStart, slot := .canDrain }
  | dispatched (i : Instr) (u : State) (hi : isHostMessage i = true) (hd : Dispatches s (rowSelector s.cfg i))
      (hu : exec i s.consumed = .next u) : Occurs s { u with pstate := .awaitStart, slot := .canDrain }
  | canDrained : Occurs s { canDrain s.consumed with slot := .rxPoll }
  | offered (bytes : List Byte) : Occurs s { s.consumed with rxIn := s.rxIn ++ bytes }
  | ticked (limit : Six Bool) (later : List Event) (t : State) (hp : s.pending = .tick limit :: later)
      (ht : tick limit s.consumed = .ok t) : Occurs s t
  | replied (id : CanId) (f : Frame) (later : List Event) (i : Instr) (t : State)
      (hp : s.pending = .canRx id f :: later) (hi : isHostMessage i = false) (ht : exec i s.consumed = .next t) :
      Occurs s t
  | recorded (id : CanId) (f : Frame) (later : List Event) (hp : s.pending = .canRx id f :: later) :
      Occurs s (recordOnly id f s.consumed)
  | txDrained (k : Nat) : Occurs s (txDrain k s.consumed)
  | reset (later : List Event) (hp : s.pending = .reset :: later) : Occurs s (resetBlock s.consumed)

/-- A main-loop event is one of the three places, and a PARSE_STEP the work of one parser state (R121, R238). -/
theorem occurs_of_mainLoopStep (s t : State) (hp : s.pending = [] ∨ ∃ later, s.pending = .mainLoop :: later)
    (h : mainLoopStep s.consumed = .next t) : Occurs s t := by
  obtain ⟨-, rfl⟩ | ⟨hslot, u, hu, rfl⟩ | ⟨-, rfl⟩ := mainLoopStep_cases _ _ h
  · exact .rxPoll
  · obtain ⟨hs, rfl⟩ | ⟨hs, rfl⟩ | ⟨hs, hfit, rfl⟩ | ⟨-, -, rfl⟩ | ⟨hs, hv, i, v, hi, hv', rfl⟩ :=
      parseStep_cases _ _ hu
    · exact .scanned hs
    · exact .headerRead hs
    · exact .payloadRead hs hfit
    · exact .dropped
    · obtain ⟨hmsg, hsel⟩ := decodeMessage_ok _ _ _ _ _ hi
      exact .dispatched i v hmsg ⟨hp, hslot, hs, hv, hsel.symm⟩ hv'
  · exact .canDrained

/-- Every step that answers a next state is one of the cases of `Occurs`, and its parameters are valid (R10, R120). -/
theorem step_occurs (s t : State) (h : step s = .next t) : s.cfg.valid = true ∧ Occurs s t := by
  obtain ⟨hv, ⟨hp, hm⟩ | ⟨e, later, hp, he⟩⟩ := step_cases s t h
  · refine ⟨hv, occurs_of_mainLoopStep s t (.inl hp) ?_⟩
    rwa [State.consumed, hp, List.tail_nil, ← hp]
  · refine ⟨hv, ?_⟩
    have hs : { s with pending := later } = s.consumed := by rw [State.consumed, hp, List.tail_cons]
    rw [hs] at he
    cases e with
    | mainLoop => exact occurs_of_mainLoopStep s t (.inr ⟨later, hp⟩) he
    | offer bytes => cases he; exact .offered bytes
    | tick limit => exact .ticked limit later t hp ((ofExcept_next _ _).1 he)
    | canRx id f =>
      simp only [runEvent, canRx] at he
      split at he
      · exact .replied id f later _ t hp (decodeFrame_ok _ _ _ _ ‹_›) he
      · cases he; exact .recorded id f later hp
    | txDrain k => cases he; exact .txDrained k
    | reset => cases he; exact .reset later hp

/-- What a successful reply does to the record of its axis, by kind (R376). -/
inductive ReplyAction (c : Config) : (Axis → Axis) → Prop
  | rawOnly : ReplyAction c fun a => a
  | start : ReplyAction c (Axis.start c)
  | disarm : ReplyAction c Axis.disarm
  | telemetry (r : ControlReply) : ReplyAction c (Axis.telemetry c r)

/-- Every motor frame is handled as a reply with one of the four actions (R375, R376). -/
theorem exec_reply (i : Instr) (s t : State) (hi : isHostMessage i = false) (h : exec i s = .next t) :
    ∃ id data act, ReplyAction s.cfg act ∧ t = handleReply id data act s := by
  cases i with
  | opResetConfig | opRefreshConfig | opModifyConfig | opRetrieveConfig | opStopCtrl | opModifyParam | opRetrieveParam
  | opGetVersion | opGetFault | opAckFault | opRetrieveIndicator => cases h; exact ⟨_, _, _, .rawOnly, rfl⟩
  | opStartMotor => cases h; exact ⟨_, _, _, .start, rfl⟩
  | opStopMotor => cases h; exact ⟨_, _, _, .disarm, rfl⟩
  | opTorqueCtrl id r | opSpeedCtrl id r | opPositionCtrl id r => cases h; exact ⟨_, _, _, .telemetry r, rfl⟩
  | _ => cases hi

/-- A property that the two updates of one axis record keep is kept by the handling of a reply (R375, R450). -/
theorem handleReply_induction (P : State → Prop) (id : CanId) (data : Frame) (act : Axis → Axis) (s : State)
    (hunknown : P (raise .canUnknownId s))
    (hok : ∀ i, P (s.modifyAxis i fun a => act (a.recordReply s.tickCount data)))
    (hfailed : ∀ i, P (s.modifyAxis i fun a => (a.recordReply s.tickCount data).countMotorErr)) :
    P (handleReply id data act s) := by
  obtain ⟨-, e⟩ | ⟨i, -, ⟨-, e⟩ | ⟨-, e⟩⟩ := handleReply_cases id data act s <;> rw [e]
  · exact hunknown
  · exact hok i
  · exact hfailed i

/-- The two outcomes of a frame of no known opcode (R176, R375). -/
theorem recordOnly_cases (id : CanId) (data : Frame) (s : State) :
    recordOnly id data s = raise .canUnknownId s
      ∨ ∃ i, recordOnly id data s = s.modifyAxis i (Axis.recordReply s.tickCount data) := by
  unfold recordOnly
  split
  · exact .inl rfl
  · exact .inr ⟨_, rfl⟩

/-- Axis `i`'s part of CAN_DRAIN: nothing, or its oldest frame leaves (R378). -/
theorem drainAxis_cases (s : State) (i : Fin 6) :
    drainAxis s i = s
      ∨ ∃ f rest, (s.axis i).txq = f :: rest
          ∧ drainAxis s i = { s.modifyAxis i (Axis.sent s.tickCount f rest) with
              canOut := s.canOut ++ [(s.cfg.canId.get i, f)] } := by
  unfold drainAxis
  split
  · exact .inl rfl
  · exact .inr ⟨_, _, by assumption, rfl⟩

end Sys2Proof.Machine
end

section
/-! PROOFS. What the whole-machine rules read of an axis record: how far calibration is, and what CAN_RX writes. For each
operation on a record, what it keeps of the two. -/

namespace Sys2Proof.Machine

/-- The stage and the two calibration flags (R44, R46). -/
def Axis.progress (a : Axis) : Byte × Bool × Bool := (a.stage, a.calibrated, a.doCalibration)

/-- What CAN_RX writes, the telemetry flag last (R46, R47, R49, R51, R375, R376). -/
def Axis.received (a : Axis) : Bool × F32 × F32 × F32 × Byte × Frame × U32 × U32 × Bool :=
  (a.armed, a.theta, a.omega, a.tau, a.temperature, a.rxFrame, a.rxTs, a.motorErrCount, a.newTelemetry)

/-- The feedback part of a TICK on one record (R380, R382): a record with telemetry waiting is snapshot and its flag
cleared. -/
def Axis.reported (axisId : Byte) (d : Direction) (a : Axis) : Axis :=
  if a.newTelemetry then { a with fb := a.snapshot axisId d, newTelemetry := false } else a

/-- What the dispatch of message `i` does to the record of axis `j` (R402-R413). -/
def messageAxis (c : Config) (playing : Bool) (j : Fin 6) (i : Instr) (a : Axis) : Axis :=
  match i with
  | .enable _ _ => a.enable c
  | .play _ _ => a.engage c
  | .stop _ _ | .reset _ _ | .quit _ _ | .disconnect _ _ => a.idle c
  | .disable _ _ => a.disable c
  | .move _ row => if playing then a else a.applySetpoint c (c.direction.get j) (row.get j)
  | _ => a

section Keeps

variable (c : Config) (d : Direction) (a : Axis)

@[simp] theorem Axis.txqPush_progress (f : Frame) : (a.txqPush c f).progress = a.progress := by
  obtain ⟨-, e⟩ | ⟨-, e⟩ := Axis.txqPush_cases c f a <;> rw [e] <;> rfl

@[simp] theorem Axis.txqPush_received (f : Frame) : (a.txqPush c f).received = a.received := by
  obtain ⟨-, e⟩ | ⟨-, e⟩ := Axis.txqPush_cases c f a <;> rw [e] <;> rfl

@[simp] theorem Axis.debounce_progress (raw : Bool) : (a.debounce c raw).progress = a.progress := by
  unfold Axis.debounce
  split_ifs <;> rfl

@[simp] theorem Axis.debounce_received (raw : Bool) : (a.debounce c raw).received = a.received := by
  unfold Axis.debounce
  split_ifs <;> rfl

@[simp] theorem Axis.applySetpoint_progress (b : F32) : (a.applySetpoint c d b).progress = a.progress := by
  unfold Axis.applySetpoint
  split_ifs <;> rfl

@[simp] theorem Axis.applySetpoint_received (b : F32) : (a.applySetpoint c d b).received = a.received := by
  unfold Axis.applySetpoint
  split_ifs <;> rfl

@[simp] theorem Axis.pdIssue_progress : (a.pdIssue c).progress = a.progress := by
  unfold Axis.pdIssue
  split_ifs
  · exact a.txqPush_progress c _
  · rfl

@[simp] theorem Axis.pdIssue_received : (a.pdIssue c).received = a.received := by
  unfold Axis.pdIssue
  split_ifs
  · exact a.txqPush_received c _
  · rfl

@[simp] theorem Axis.reported_progress (axisId : Byte) : (a.reported axisId d).progress = a.progress := by
  unfold Axis.reported
  split_ifs <;> rfl

/-- ENABLE writes nothing that CAN_RX writes (R402). -/
theorem Axis.enable_received : (a.enable c).received = a.received := by
  simp only [Axis.enable]
  split_ifs <;> exact a.txqPush_received c _

/-- ENABLE on the calibration of an axis (R402): a calibrated one keeps it, any other starts again from 255. -/
theorem Axis.enable_progress :
    (a.enable c).progress = if a.calibrated then a.progress else (255, a.calibrated, true) := by
  have hp := a.txqPush_progress c (encNone c.op.startMotor)
  obtain ⟨-, hc, -⟩ : _ ∧ _ ∧ _ := by simpa only [Axis.progress, Prod.mk.injEq] using hp
  simp only [Axis.enable, hc]
  split_ifs
  · exact hp
  · simp only [Axis.progress]

/-- DISABLE writes nothing that CAN_RX writes (R406). -/
theorem Axis.disable_received : (a.disable c).received = a.received :=
  (a.idle c).txqPush_received c _

/-- DISABLE withdraws the request for calibration and keeps the rest (R406). -/
theorem Axis.disable_progress : (a.disable c).progress = (a.stage, a.calibrated, false) := by
  have hp : ((a.idle c).txqPush c (encNone c.op.stopMotor)).progress = a.progress :=
    (a.idle c).txqPush_progress c _
  simp only [Axis.progress, Prod.mk.injEq] at hp
  obtain ⟨hs, hc, -⟩ := hp
  simp only [Axis.disable, Axis.progress, hs, hc]

end Keeps

/-- A successful reply leaves the calibration of its axis alone (R376). -/
theorem ReplyAction.progress {c : Config} {act : Axis → Axis} (h : ReplyAction c act) (a : Axis) :
    (act a).progress = a.progress := by
  cases h with
  | rawOnly | disarm | telemetry => rfl
  | start => exact Axis.txqPush_progress ..

/-- What calibration leaves alone: what CAN_RX writes, the debounce counter, the gains and the queue (R353-R361). -/
def Axis.outsideCalibration (a : Axis) :=
  (a.received, a.debCount, a.p, a.d, a.vLim, a.txq)

/-- The stages of calibration, each with the one that follows it, up to the last (R44, R354-R360). -/
def stageOrder : List (Byte × Byte) :=
  [(255, 0), (0, 1), (1, 2), (2, 3), (3, 4), (4, 5), (5, 6)]

/-- What one stage of calibration can do (R353-R361): the stage stays, or the next listed one follows with `calibrated`
kept, or stage 6 finishes. -/
inductive CalStep (a : Axis) : Axis → Prop
  | stays {b : Axis} (hk : b.outsideCalibration = a.outsideCalibration) (hp : b.progress = a.progress) : CalStep a b
  | advances {b : Axis} (hk : b.outsideCalibration = a.outsideCalibration)
      (hs : (a.stage, b.stage) ∈ stageOrder)
      (hc : b.calibrated = a.calibrated) : CalStep a b
  | finishes (hs : a.stage = 6) : CalStep a a.calFinish

section Stages

variable {a : Axis} (c : Config) (d : Direction)

theorem CalStep.snap (hs : a.stage = 255) : CalStep a a.calSnap :=
  .advances rfl (by simp [stageOrder, hs, Axis.calSnap]) rfl

theorem CalStep.seek (hs : a.stage = 0) : CalStep a (a.calSeek c d) := by
  unfold Axis.calSeek
  split_ifs
  · exact .advances rfl (by simp [stageOrder, hs]) rfl
  · exact .stays rfl rfl

theorem CalStep.dwell (hs : a.stage = 1) : CalStep a (a.calDwell c) := by
  simp only [Axis.calDwell]
  split_ifs
  · exact .advances rfl (by simp [stageOrder, hs]) rfl
  · exact .stays rfl rfl

theorem CalStep.backOff (hs : a.stage = 2) : CalStep a (a.calBackOff c d) := by
  unfold Axis.calBackOff
  split_ifs
  · exact .stays rfl rfl
  · exact .advances rfl (by simp [stageOrder, hs]) rfl

theorem CalStep.seekOpposite (hs : a.stage = 3) : CalStep a (a.calSeekOpposite c d) := by
  unfold Axis.calSeekOpposite
  split_ifs
  · exact .advances rfl (by simp [stageOrder, hs]) rfl
  · exact .stays rfl rfl

theorem CalStep.backOffOpposite (hs : a.stage = 4) : CalStep a (a.calBackOffOpposite c d) := by
  unfold Axis.calBackOffOpposite
  split_ifs
  · exact .stays rfl rfl
  · exact .advances rfl (by simp [stageOrder, hs]) rfl

theorem CalStep.converge (hs : a.stage = 5) : CalStep a (a.calConverge c) := by
  simp only [Axis.calConverge]
  split_ifs
  · exact .advances rfl (by simp [stageOrder, hs]) rfl
  · exact .stays rfl rfl
  · exact .stays rfl rfl

end Stages

/-- The work of the one stage an axis is in, when it has one (R353, R362). -/
theorem Axis.calStage_some (c : Config) (d : Direction) (a b : Axis) (h : a.calStage c d = some b) : CalStep a b := by
  unfold Axis.calStage at h
  obtain ⟨hs, h⟩ | ⟨-, h⟩ := ite_eq_cases h
  · cases h; exact .snap hs
  obtain ⟨hs, h⟩ | ⟨-, h⟩ := ite_eq_cases h
  · cases h; exact .seek c d hs
  obtain ⟨hs, h⟩ | ⟨-, h⟩ := ite_eq_cases h
  · cases h; exact .dwell c hs
  obtain ⟨hs, h⟩ | ⟨-, h⟩ := ite_eq_cases h
  · cases h; exact .backOff c d hs
  obtain ⟨hs, h⟩ | ⟨-, h⟩ := ite_eq_cases h
  · cases h; exact .seekOpposite c d hs
  obtain ⟨hs, h⟩ | ⟨-, h⟩ := ite_eq_cases h
  · cases h; exact .backOffOpposite c d hs
  obtain ⟨hs, h⟩ | ⟨-, h⟩ := ite_eq_cases h
  · cases h; exact .converge c hs
  obtain ⟨hs, h⟩ | ⟨-, h⟩ := ite_eq_cases h
  · cases h; exact .finishes hs
  · cases h

/-- The calibration part of a TICK (R353): nothing, or one stage's work behind the open gate. -/
theorem Axis.calibrate_some (c : Config) (d : Direction) (a b : Axis) (h : a.calibrate c d = some b) :
    b = a ∨ (a.doCalibration = true ∧ a.calibrated = false ∧ CalStep a b) := by
  unfold Axis.calibrate at h
  split at h
  · rename_i hg
    simp only [Axis.calibrating, Bool.and_eq_true, Bool.not_eq_true'] at hg
    exact .inr ⟨hg.1, hg.2, a.calStage_some c d b h⟩
  · exact .inl (Option.some.inj h).symm

/-- Calibration writes nothing that CAN_RX writes. -/
theorem Axis.calibrate_outside (c : Config) (d : Direction) (a b : Axis) (h : a.calibrate c d = some b) :
    b.outsideCalibration = a.outsideCalibration := by
  obtain rfl | ⟨-, -, hstep⟩ := a.calibrate_some c d b h
  · rfl
  · cases hstep with
    | stays hk | advances hk => exact hk
    | finishes => rfl

end Sys2Proof.Machine
end

section
/-! PROOFS. Every operation on an axis record keeps it well formed (R44, R45, R48, R49). -/

namespace Sys2Proof.Machine

theorem Axis.wf_iff (c : Config) (a : Axis) :
    a.wf c = true ↔
      legalStage a.stage = true ∧ a.debCount.toNat < c.debounceN
        ∧ (a.p = c.pIdle ∧ a.d = c.dIdle ∧ a.vLim = c.vLimIdle
          ∨ a.p = c.pEngaged ∧ a.d = c.dEngaged ∧ a.vLim = c.vLimEngaged)
        ∧ a.txq.length ≤ c.canTxqDepth := by
  simp [Axis.wf, and_assoc]

theorem Axis.wf_reset (c : Config) (hv : c.valid = true) : (Axis.reset c).wf c = true := by
  have h := (c.valid_counts hv).2.2.1
  exact (Axis.wf_iff c _).2 ⟨rfl, h, .inl ⟨rfl, rfl, rfl⟩, Nat.zero_le _⟩

section WellFormed

variable {c : Config} {a : Axis} (h : a.wf c = true)

include h

theorem Axis.wf_txqPush (f : Frame) : (a.txqPush c f).wf c = true := by
  obtain ⟨hs, hd, hg, hq⟩ := (Axis.wf_iff c a).1 h
  have hq' := a.length_txqPush c f hq
  obtain ⟨-, e⟩ | ⟨-, e⟩ := a.txqPush_cases c f <;> rw [e] at hq' ⊢
  · exact (Axis.wf_iff c _).2 ⟨hs, hd, hg, hq'⟩
  · exact (Axis.wf_iff c _).2 ⟨hs, hd, hg, hq'⟩

/-- `debCount` stays below DEBOUNCE_N: it is cleared, or counted while still below (R352). -/
theorem Axis.wf_debounce (raw : Bool) : (a.debounce c raw).wf c = true := by
  obtain ⟨hs, hd, hg, hq⟩ := (Axis.wf_iff c a).1 h
  have hpos : (0 : Byte).toNat < c.debounceN := Nat.zero_lt_of_lt hd
  unfold Axis.debounce
  split_ifs with h1 h2
  · exact (Axis.wf_iff c _).2 ⟨hs, hpos, hg, hq⟩
  · exact (Axis.wf_iff c _).2 ⟨hs, hpos, hg, hq⟩
  · exact (Axis.wf_iff c _).2 ⟨hs, Nat.lt_of_not_le h2, hg, hq⟩

theorem Axis.wf_applySetpoint (d : Direction) (b : F32) : (a.applySetpoint c d b).wf c = true := by
  unfold Axis.applySetpoint
  split_ifs <;> exact h

theorem Axis.wf_engage : (a.engage c).wf c = true := by
  obtain ⟨hs, hd, -, hq⟩ := (Axis.wf_iff c a).1 h
  exact (Axis.wf_iff c _).2 ⟨hs, hd, .inr ⟨rfl, rfl, rfl⟩, hq⟩

theorem Axis.wf_idle : (a.idle c).wf c = true := by
  obtain ⟨hs, hd, -, hq⟩ := (Axis.wf_iff c a).1 h
  exact (Axis.wf_iff c _).2 ⟨hs, hd, .inl ⟨rfl, rfl, rfl⟩, hq⟩

theorem Axis.wf_enable : (a.enable c).wf c = true := by
  have hpush := Axis.wf_txqPush h (encNone c.op.startMotor)
  simp only [Axis.enable]
  split_ifs
  · exact hpush
  · obtain ⟨-, hrest⟩ := (Axis.wf_iff c _).1 hpush
    exact (Axis.wf_iff c _).2 ⟨rfl, hrest⟩

theorem Axis.wf_disable : (a.disable c).wf c = true :=
  Axis.wf_txqPush (a := a.idle c) (Axis.wf_idle h) _

/-- Calibration goes from a listed stage to a listed stage (R44, R353). -/
theorem Axis.wf_calibrate (d : Direction) (b : Axis) (hb : a.calibrate c d = some b) : b.wf c = true := by
  obtain ⟨hs, hd, hg, hq⟩ := (Axis.wf_iff c a).1 h
  have hstage : legalStage b.stage = true := by
    obtain rfl | ⟨-, -, hstep⟩ := a.calibrate_some c d b hb
    · exact hs
    · cases hstep with
      | stays _ hp => rw [(Prod.mk.inj hp).1]; exact hs
      | advances _ hn =>
        simp only [stageOrder, List.mem_cons, Prod.mk.injEq, List.not_mem_nil, or_false] at hn
        rcases hn with ⟨-, e⟩ | ⟨-, e⟩ | ⟨-, e⟩ | ⟨-, e⟩ | ⟨-, e⟩ | ⟨-, e⟩ | ⟨-, e⟩
        all_goals rw [e]; rfl
      | finishes => rfl
  have ho := a.calibrate_outside c d b hb
  simp only [Axis.outsideCalibration, Prod.mk.injEq] at ho
  obtain ⟨-, e1, e2, e3, e4, e5⟩ := ho
  rw [Axis.wf_iff, e1, e2, e3, e4, e5]
  exact ⟨hstage, hd, hg, hq⟩

theorem Axis.wf_pdIssue : (a.pdIssue c).wf c = true := by
  unfold Axis.pdIssue
  split_ifs
  · exact Axis.wf_txqPush h _
  · exact h

theorem Axis.wf_sent (now : U32) (f : Frame) (rest : List Frame) (hf : a.txq = f :: rest) :
    (a.sent now f rest).wf c = true := by
  obtain ⟨hs, hd, hg, hq⟩ := (Axis.wf_iff c a).1 h
  rw [hf, List.length_cons] at hq
  exact (Axis.wf_iff c _).2 ⟨hs, hd, hg, Nat.le_of_succ_le hq⟩

theorem ReplyAction.wf {act : Axis → Axis} (ha : ReplyAction c act) : (act a).wf c = true := by
  cases ha with
  | rawOnly | disarm | telemetry => exact h
  | start => exact Axis.wf_txqPush (a := { a with armed := true }) h _

end WellFormed

end Sys2Proof.Machine
end

section
/-! PROOFS. Every operation on the state keeps the invariant, and so does every step (R32, R34, R37, R38, R44, R45, R48,
R49, R200). -/

namespace Sys2Proof.Machine

theorem rewound_index (n : U32) : if n = 0 then (0 : U32) = 0 else (0 : U32).toNat < n.toNat := by
  split_ifs with h0
  · rfl
  · exact Nat.pos_of_ne_zero fun e => h0 (BitVec.eq_of_toNat_eq e)

section Updates

variable {s : State} (h : s.Inv)

include h

/-- The invariant does not read the ports, the schedule, the counters and the running values named here. -/
theorem State.Inv.unread {pending : List Event} {rxIn txOut : List Byte} {canOut : List (CanId × Frame)}
    {slot : LoopSlot} {crc txSeq tickCount : U32} {playing : Bool} {counters : Counters} :
    ({ s with pending, rxIn, txOut, canOut, slot, crc, playing, txSeq, tickCount, counters } : State).Inv :=
  { h with }

theorem State.Inv.withRx {r : Ring} (hr : Ring.wf s.cfg.rxCap r = true) : ({ s with rx := r } : State).Inv :=
  { h with rxRing := hr }

theorem State.Inv.withTx {r : Ring} (hr : Ring.wf s.cfg.txCap r = true) : ({ s with tx := r } : State).Inv :=
  { h with txRing := hr }

theorem State.Inv.withAxes {axes : Six Axis} (ha : ∀ i, (axes.get i).wf s.cfg = true) :
    ({ s with axes := axes } : State).Inv :=
  { h with axes := ha }

/-- Between packets the descriptor is free (R35, R239). -/
theorem State.Inv.toAwaitStart : ({ s with pstate := .awaitStart } : State).Inv :=
  { h with header := nofun, admitted := nofun, unjudged := nofun, complete := nofun }

/-- The start of the trajectory is a row of it, or there is none (R37, R405, R409). -/
theorem State.Inv.rewind : ({ s with trajIndex := 0 } : State).Inv :=
  { h with trajIndex := rewound_index s.arrayLength }

theorem State.Inv.modifyAxis (i : Fin 6) {f : Axis → Axis}
    (hf : (s.axis i).wf s.cfg = true → (f (s.axis i)).wf s.cfg = true) : (s.modifyAxis i f).Inv := by
  refine h.withAxes fun j => ?_
  by_cases hj : j = i
  · subst hj; rw [Six.get_set_self]; exact hf (h.axes j)
  · rw [Six.get_set_ne _ _ _ _ hj]; exact h.axes j

theorem State.Inv.mapAxes {f : Axis → Axis} (hf : ∀ a, a.wf s.cfg = true → (f a).wf s.cfg = true) :
    (s.mapAxes f).Inv :=
  h.withAxes fun j => by rw [Six.get_map]; exact hf _ (h.axes j)

theorem State.Inv.mapAxesIdx {f : Fin 6 → Axis → Axis}
    (hf : ∀ i a, a.wf s.cfg = true → (f i a).wf s.cfg = true) :
    (s.mapAxesIdx f).Inv :=
  h.withAxes fun j => by rw [Six.get_mapIdx]; exact hf _ _ (h.axes j)

/-- Raising a condition writes counters only (R441). -/
theorem State.Inv.raise (c : Condition) : (Machine.raise c s).Inv := by
  cases c with
  | motorError i | canTxDrop i => exact h.modifyAxis i fun hw => hw
  | _ => exact h.unread

theorem State.Inv.sendPacket (m dest : Byte) (pl : List Byte) : (Machine.sendPacket m dest pl s).Inv := by
  obtain ⟨u, e, -, hu⟩ := sendPacket_withTransmit m dest pl s h.valid h.txRing
  rw [e]
  exact (h.withTx hu).unread

theorem State.Inv.sendAck (hd : Header) (m : Byte) : (Machine.sendAck hd m s).Inv := h.sendPacket ..

theorem State.Inv.sendNak (hd : Header) (m : Byte) : (Machine.sendNak hd m s).Inv := h.sendPacket ..

theorem State.Inv.stopPlaying : (Machine.stopPlaying s).Inv := (h.mapAxes fun _ => Axis.wf_idle).unread

theorem State.Inv.applyRow (row : Row) : (Machine.applyRow row s).Inv :=
  h.mapAxesIdx fun _ _ ha => Axis.wf_applySetpoint ha _ _

end Updates

/-! Instructions. -/

/-- An UPLOAD commits whole rows inside the buffer (R37, R104, R407). -/
theorem execUpload_inv {s t : State} (hd : Header) (rows : List Row) (h : s.Inv) (ht : execUpload hd rows s = .next t) :
    t.Inv := by
  unfold execUpload at ht
  split at ht
  · obtain rfl := Host.Outcome.next.inj ht; exact (h.raise _).sendNak ..
  · rename_i hfit
    obtain rfl := Host.Outcome.next.inj ht
    obtain ⟨hwf, hin⟩ := Bool.and_eq_true_iff.1 h.trajBuffer
    have hrows : (u32 rows.length).toNat ≤ rows.length := by
      simp only [u32, BitVec.toNat_ofNat]; exact Nat.mod_le _ _
    have hbuffer : Memory.within (rowBytes * s.cfg.trajRows) (Memory.writeBytes s.traj 0 (rowsToBytes rows)) = true :=
      Memory.within_writeBytes _ _ _ _ hin (by rw [length_rowsToBytes, rowBytes]; omega)
    have hcommitted : ({ s with
        traj := Memory.writeBytes s.traj 0 (rowsToBytes rows)
        arrayLength := u32 rows.length
        trajIndex := 0 } : State).Inv :=
      { h with
        trajBuffer := Bool.and_eq_true_iff.2 ⟨Memory.wf_writeBytes _ _ _ hwf, hbuffer⟩
        arrayLength := hrows.trans (Nat.le_of_not_lt hfit)
        trajIndex := rewound_index _ }
    exact hcommitted.sendAck ..

theorem execMove_inv {s t : State} (hd : Header) (row : Row) (h : s.Inv) (ht : execMove hd row s = .next t) :
    t.Inv := by
  unfold execMove at ht
  split at ht
  · obtain rfl := Host.Outcome.next.inj ht; exact (h.raise _).sendNak ..
  · obtain rfl := Host.Outcome.next.inj ht; exact (h.applyRow row).sendAck ..

theorem handleReply_inv {s : State} (id : CanId) (data : Frame) (act : Axis → Axis) (h : s.Inv)
    (ha : ReplyAction s.cfg act) : (handleReply id data act s).Inv :=
  handleReply_induction State.Inv id data act s (h.raise _)
    (fun i => h.modifyAxis i fun hw => ReplyAction.wf (a := (s.axis i).recordReply s.tickCount data) hw ha)
    (fun i => h.modifyAxis i fun hw => hw)

/-- Every instruction keeps the invariant. -/
theorem exec_inv {s t : State} (i : Instr) (h : s.Inv) (ht : exec i s = .next t) : t.Inv := by
  cases hi : isHostMessage i with
  | false =>
    obtain ⟨id, data, act, ha, rfl⟩ := exec_reply i s t hi ht
    exact handleReply_inv id data act h ha
  | true =>
    cases i with
    | heartbeat | connect => obtain rfl := Host.Outcome.next.inj ht; exact h.sendAck ..
    | enable hd =>
      have hsent := h.sendAck hd s.cfg.msg.enable
      obtain rfl := Host.Outcome.next.inj ht
      exact hsent.mapAxes fun _ ha => by rw [sendAck_cfg] at ha ⊢; exact Axis.wf_enable ha
    | play hd =>
      have hsent := h.sendAck hd s.cfg.msg.play
      obtain rfl := Host.Outcome.next.inj ht
      exact (hsent.mapAxes fun _ ha => by rw [sendAck_cfg] at ha ⊢; exact Axis.wf_engage ha).unread
    | pause => obtain rfl := Host.Outcome.next.inj ht; exact (h.sendAck ..).unread
    | stop | reset => obtain rfl := Host.Outcome.next.inj ht; exact (h.sendAck ..).stopPlaying.rewind
    | disable hd =>
      have hsent := h.sendAck hd s.cfg.msg.disable
      obtain rfl := Host.Outcome.next.inj ht
      exact (hsent.mapAxes fun _ ha => by rw [sendAck_cfg] at ha ⊢; exact Axis.wf_disable ha).unread
    | upload hd rows => exact execUpload_inv hd rows h ht
    | quit | disconnect => obtain rfl := Host.Outcome.next.inj ht; exact (h.sendAck ..).stopPlaying
    | ack | nak | feedback | info => obtain rfl := Host.Outcome.next.inj ht; exact h
    | move hd row => exact execMove_inv hd row h ht
    | unknown => obtain rfl := Host.Outcome.next.inj ht; exact h.raise _
    | _ => cases hi

/-! The parser. -/

theorem Ring.wf_consumeLoop (n : Nat) (marker : Byte) (fuel : Nat) (r : Ring) (k : Nat) (hn : n < 2 ^ 32)
    (h : Ring.wf n r = true) : Ring.wf n (Ring.consumeLoop n marker fuel r k).2.2 = true := by
  induction fuel generalizing r k with
  | zero => exact h
  | succ fuel ih =>
    unfold Ring.consumeLoop
    obtain ⟨e, -⟩ | ⟨b, r', e, hr', -⟩ := Ring.pop_cases n r hn h
    · rw [e]; exact h
    · rw [e]
      simp only
      split_ifs
      · exact hr'
      · exact ih r' (k + 1) hr'

section Parser

variable {s : State} (h : s.Inv)

include h

theorem rxPoll_inv : (rxPoll s).Inv :=
  (h.withRx (Ring.wf_writeBytes _ _ _ (s.cfg.valid_ringCaps h.valid).2.1 h.rxRing)).unread

/-- A cycle begins with an empty descriptor and nothing read (R240). -/
theorem beginCycle_inv : (beginCycle s).Inv :=
  { h with
    payloadRead := Nat.le_refl _
    payloadSize := Nat.zero_le _
    header := fun _ => rfl
    admitted := nofun
    unjudged := nofun
    complete := nofun }

theorem awaitStartStep_inv : (awaitStartStep s).Inv := by
  have hcap := (s.cfg.valid_ringCaps h.valid).2.1
  have hring := Ring.wf_consumeLoop _ s.cfg.startMarker s.rx.count.toNat _ 0 hcap h.rxRing
  have hscanned := (h.withRx hring).raise (.discard (Ring.consumeUntil s.cfg.rxCap s.rx s.cfg.startMarker).2.1)
  simp only [awaitStartStep]
  split_ifs
  · exact beginCycle_inv hscanned
  · exact hscanned

end Parser

/-- A header passes the checks only with a size that PB and its kind have (R245, R246). What they start from meets the
invariant but for the state of the parser, which they set. -/
theorem checkHeader_inv (s : State) (h : ({ s with pstate := .awaitStart } : State).Inv) (hread : s.payloadRead = 0)
    (hverdict : s.info.isValid = false) : (checkHeader s).Inv := by
  obtain ⟨-, hmax, -⟩ := s.cfg.valid_packetSizes h.valid
  simp only [checkHeader]
  split
  · exact h.unread
  · rename_i hlen
    rw [not_or, Nat.not_lt, Nat.not_lt] at hlen
    have hp : (u32 (s.info.length.toNat - s.cfg.overhead)).toNat = s.info.length.toNat - s.cfg.overhead :=
      toNat_u32 _ (by omega)
    have hsized : ({ s with
        info := { s.info with payloadSize := u32 (s.info.length.toNat - s.cfg.overhead) }
        pstate := .awaitStart } : State).Inv :=
      { h with
        payloadRead := by simp only [hread]; exact Nat.zero_le _
        payloadSize := by simp only [hp, Config.maxPayload]; omega
        header := nofun
        admitted := nofun
        unjudged := nofun
        complete := nofun }
    split
    · exact hsized.unread
    · rename_i hsize
      rw [Bool.not_eq_true', Bool.not_eq_false] at hsize
      exact { hsized with
        header := nofun
        admitted := fun _ => ⟨by simp only [hp]; omega, by simp only [hp]; exact hsize⟩
        unjudged := fun _ => hverdict
        complete := nofun }

theorem awaitHeaderStep_inv (s : State) (h : s.Inv) (hs : s.pstate = .awaitHeader) : (awaitHeaderStep s).Inv := by
  have hempty := h.header hs
  have hread : s.payloadRead = 0 := by
    have := h.payloadRead
    rw [hempty] at this
    exact BitVec.eq_of_toNat_eq (Nat.le_zero.1 this)
  have hcap := (s.cfg.valid_ringCaps h.valid).2.1
  unfold awaitHeaderStep
  split_ifs
  · exact h
  · refine checkHeader_inv _ ?_ hread (congrArg PacketInfo.isValid hempty)
    exact { (h.withRx (Ring.wf_readBytes _ _ headerSize hcap h.rxRing)).toAwaitStart with
      header := nofun, admitted := nofun, unjudged := nofun, complete := nofun }

/-- The drain writes inside PB and never past the payload (R250). -/
theorem drainPayload_inv (s : State) (h : s.Inv) (hs : s.pstate = .awaitPayloadCrc) : (drainPayload s).Inv := by
  obtain ⟨e, -, hrx⟩ := drainPayload_spec s h
  have hle := drainSize_le s h
  have hsize := h.payloadSize
  obtain ⟨hwf, hin⟩ := Bool.and_eq_true_iff.1 h.payloadBuffer
  have hread : (u32 (s.payloadRead.toNat + drainSize s)).toNat = s.payloadRead.toNat + drainSize s :=
    toNat_u32 _ (by have := s.info.payloadSize.isLt; omega)
  have hbuffer : Memory.within s.cfg.maxPayload
      (Memory.writeBytes s.pb s.payloadRead.toNat ((Ring.content s.cfg.rxCap s.rx).take (drainSize s))) = true :=
    Memory.within_writeBytes _ _ _ _ hin (by rw [List.length_take]; omega)
  rw [e]
  exact { h with
    rxRing := hrx
    payloadBuffer := Bool.and_eq_true_iff.2 ⟨Memory.wf_writeBytes _ _ _ hwf, hbuffer⟩
    payloadRead := by simp only [hread]; exact hle
    complete := fun hc => by rw [hs] at hc; cases hc }

/-- A verdict is given on a payload that has been read whole (R251, R252). -/
theorem footerStep_inv (s : State) (h : s.Inv) (hs : s.pstate = .awaitPayloadCrc) : (footerStep s).Inv := by
  unfold footerStep
  split_ifs with hwait
  · exact h
  · rw [not_or, Nat.not_lt] at hwait
    have hcap := (s.cfg.valid_ringCaps h.valid).2.1
    simp only [judge_spec]
    exact { (h.withRx (Ring.wf_readBytes _ _ s.cfg.footerSize hcap h.rxRing)) with
      header := nofun
      admitted := fun _ => h.admitted (.inl hs)
      unjudged := nofun
      complete := fun _ => BitVec.eq_of_toNat_eq (Nat.le_antisymm h.payloadRead hwait.1) }

/-! The other events. -/

theorem drainAxis_inv (i : Fin 6) (s : State) (h : s.Inv) : (drainAxis s i).Inv := by
  obtain e | ⟨f, rest, hf, e⟩ := drainAxis_cases s i <;> rw [e]
  · exact h
  · exact (h.modifyAxis i fun hw => Axis.wf_sent hw _ f rest hf).unread

theorem tickStart_inv (limit : Six Bool) (s : State) (h : s.Inv) : (tickStart limit s).Inv :=
  State.Inv.mapAxesIdx (s := { s with tickCount := s.tickCount + 1 }) h.unread fun _ _ ha => Axis.wf_debounce ha _

/-- Playback moves to a row of the trajectory (R37, R381). -/
theorem playback_inv (s t : State) (h : s.Inv) (ht : playback s = .ok t) : t.Inv := by
  obtain ⟨-, hlen, -, rfl⟩ | ⟨-, rfl⟩ := playback_ok s t ht
  · have hnext : (u32 ((s.trajIndex.toNat + 1) % s.arrayLength.toNat)).toNat < s.arrayLength.toNat := by
      have hlt := Nat.mod_lt (s.trajIndex.toNat + 1) hlen
      rwa [toNat_u32 _ (hlt.trans s.arrayLength.isLt)]
    exact { h.applyRow _ with
      trajIndex := by
        split_ifs with h0
        · exact absurd (congrArg BitVec.toNat h0) hlen.ne'
        · exact hnext }
  · exact h

theorem feedbackAxis_inv (i : Fin 6) (s : State) (h : s.Inv) : (feedbackAxis i s).Inv := by
  have hsnapped := h.modifyAxis i
    (f := fun a => { a with fb := a.snapshot (s.cfg.axisId.get i) (s.cfg.direction.get i) }) fun hw => hw
  unfold feedbackAxis sendFeedback
  exact (hsnapped.sendPacket ..).modifyAxis i fun hw => hw

theorem tickAxis_inv (i : Fin 6) (s t : State) (h : s.Inv) (ht : tickAxis i s = .ok t) : t.Inv := by
  obtain ⟨a, ha, rfl⟩ := tickAxis_ok i s t ht
  have hissued := h.modifyAxis i (f := fun _ => a.pdIssue s.cfg)
    fun hw => Axis.wf_pdIssue (Axis.wf_calibrate hw _ a ha)
  split_ifs
  · exact feedbackAxis_inv i _ hissued
  · exact hissued

theorem tick_inv (limit : Six Bool) (s t : State) (h : s.Inv) (ht : tick limit s = .ok t) : t.Inv := by
  unfold tick at ht
  split at ht
  · cases ht
  · rename_i u hu
    exact tickAxes_induction State.Inv tickAxis_inv axisOrder u t (playback_inv _ u (tickStart_inv limit s h) hu) ht

theorem recordOnly_inv (id : CanId) (data : Frame) (s : State) (h : s.Inv) : (recordOnly id data s).Inv := by
  obtain e | ⟨i, e⟩ := recordOnly_cases id data s <;> rw [e]
  · exact h.raise _
  · exact h.modifyAxis i fun hw => hw

theorem txDrain_inv (k : Nat) (s : State) (h : s.Inv) : (txDrain k s).Inv :=
  (h.withTx (Ring.wf_readBytes _ _ k (s.cfg.valid_ringCaps h.valid).2.2.2 h.txRing)).unread

theorem Ring.wf_empty (n : Nat) (hn : 0 < n) : Ring.wf n Ring.empty = true :=
  (Ring.wf_iff n _).2 ⟨Nat.zero_le _, hn, hn, (Nat.zero_mod n).symm, rfl, rfl⟩

/-- RESET gives a state that meets the invariant whatever it started from (R470). -/
theorem resetBlock_inv (s : State) (hv : s.cfg.valid = true) : (resetBlock s).Inv where
  valid := hv
  rxRing := Ring.wf_empty _ (by have := s.cfg.valid_ringCaps hv; simp only [resetBlock, State.powerOn]; omega)
  txRing := Ring.wf_empty _ (by have := s.cfg.valid_ringCaps hv; simp only [resetBlock, State.powerOn]; omega)
  payloadBuffer := rfl
  trajBuffer := rfl
  payloadRead := Nat.le_refl _
  payloadSize := Nat.zero_le _
  header := nofun
  admitted := nofun
  unjudged := nofun
  complete := nofun
  arrayLength := Nat.zero_le _
  trajIndex := rfl
  axes := fun i => (congrArg (Axis.wf s.cfg) (Six.get_replicate _ i)).trans (Axis.wf_reset s.cfg hv)

theorem consumed_inv (s : State) (h : s.Inv) : s.consumed.Inv := h.unread

/-- Settles O59: each event keeps the invariant, and a step is one event. -/
theorem everyStepKeepsInvariant : Obligations.EveryStepKeepsInvariant := by
  intro s t hs hstep
  have h := consumed_inv s hs
  obtain ⟨hv, ho⟩ := step_occurs s t hstep
  cases ho with
  | rxPoll => exact (rxPoll_inv h).unread
  | scanned => exact (awaitStartStep_inv h).unread
  | headerRead hp => exact (awaitHeaderStep_inv _ h hp).unread
  | payloadRead hp => exact (footerStep_inv _ (drainPayload_inv _ h hp) hp).unread
  | dropped => exact h.toAwaitStart.unread
  | dispatched i u hi hd hu => exact (exec_inv i h hu).toAwaitStart.unread
  | canDrained => exact (canDrain_induction State.Inv drainAxis_inv _ h).unread
  | offered => exact h.unread
  | ticked limit later t hp ht => exact tick_inv limit _ t h ht
  | replied id f later i t hp hi ht => exact exec_inv i h ht
  | recorded => exact recordOnly_inv _ _ _ h
  | txDrained => exact txDrain_inv _ _ h
  | reset => exact resetBlock_inv _ hv

end Sys2Proof.Machine
end

section
/-! PROOFS. What a step can do to one axis record, said once: `AxisStep` lists it by event. -/

namespace Sys2Proof.Machine

open Sys2Proof.Laws

/-- An update of one axis leaves each record as it was, or updated (R44). -/
theorem modifyAxis_axis_cases (s : State) (i j : Fin 6) (f : Axis → Axis) :
    (s.modifyAxis i f).axis j = s.axis j ∨ (s.modifyAxis i f).axis j = f (s.axis j) := by
  rw [modifyAxis_axis]
  split_ifs
  · exact .inr rfl
  · exact .inl rfl

/-- The feedback of axis `i` touches its record only (R382). -/
theorem feedbackAxis_axis (i j : Fin 6) (s : State) :
    (feedbackAxis i s).axis j = if j = i then
        { s.axis i with
          fb := (s.axis i).snapshot (s.cfg.axisId.get i) (s.cfg.direction.get i), newTelemetry := false }
      else s.axis j := by
  unfold feedbackAxis sendFeedback
  split_ifs with hj
  · subst hj
    rw [modifyAxis_axis_self, sendPacket_axis, modifyAxis_axis_self]
  · rw [modifyAxis_axis_ne _ _ _ _ hj, sendPacket_axis, modifyAxis_axis_ne _ _ _ _ hj]

theorem feedbackAxis_cfg (i : Fin 6) (s : State) : (feedbackAxis i s).cfg = s.cfg := by
  unfold feedbackAxis sendFeedback
  rw [modifyAxis_cfg, sendPacket_cfg, modifyAxis_cfg]

/-- Axis `i`'s part of a TICK, and no other axis's (R380). -/
theorem tickAxis_axis (i j : Fin 6) (s t : State) (h : tickAxis i s = .ok t) :
    t.cfg = s.cfg
      ∧ (j ≠ i → t.axis j = s.axis j)
      ∧ ∃ a, (s.axis i).calibrate s.cfg (s.cfg.direction.get i) = some a
          ∧ t.axis i = (a.pdIssue s.cfg).reported (s.cfg.axisId.get i) (s.cfg.direction.get i) := by
  obtain ⟨a, ha, rfl⟩ := tickAxis_ok i s t h
  split_ifs with hn
  · refine ⟨feedbackAxis_cfg .., fun hj => ?_, a, ha, ?_⟩
    · rw [feedbackAxis_axis, if_neg hj, modifyAxis_axis_ne _ _ _ _ hj]
    · rw [feedbackAxis_axis, if_pos rfl, modifyAxis_axis_self, Axis.reported, if_pos hn, modifyAxis_cfg]
  · refine ⟨rfl, fun hj => modifyAxis_axis_ne _ _ _ _ hj, a, ha, ?_⟩
    rw [modifyAxis_axis_self, Axis.reported, if_neg hn]

/-- The axes' parts of a TICK change the record of each axis they visit once, and no other (R380). -/
theorem tickAxes_axis (is : List (Fin 6)) (hn : is.Nodup) (s t : State) (h : tickAxes is s = .ok t) (j : Fin 6) :
    (j ∉ is → t.axis j = s.axis j)
      ∧ (j ∈ is → ∃ a, (s.axis j).calibrate s.cfg (s.cfg.direction.get j) = some a
          ∧ t.axis j = (a.pdIssue s.cfg).reported (s.cfg.axisId.get j) (s.cfg.direction.get j)) := by
  induction is generalizing s with
  | nil => cases h; exact ⟨fun _ => rfl, nofun⟩
  | cons i rest ih =>
    obtain ⟨hi, hrest⟩ := List.nodup_cons.1 hn
    simp only [tickAxes] at h
    split at h
    · cases h
    · rename_i u hu
      obtain ⟨hcfg, hother, a, ha, hself⟩ := tickAxis_axis i j s u hu
      obtain ⟨hout, hin⟩ := ih hrest u h
      by_cases hj : j = i
      · subst hj
        exact ⟨fun hm => absurd List.mem_cons_self hm, fun _ => ⟨a, ha, (hout hi).trans hself⟩⟩
      · rw [hcfg, hother hj] at hin
        rw [hother hj] at hout
        exact ⟨fun hm => hout fun hr => hm (List.mem_cons_of_mem _ hr),
          fun hm => hin ((List.mem_cons.1 hm).resolve_left hj)⟩

/-- What a TICK does to one record: debounce, the row of playback where there is one, calibration, PD, feedback
(R380). -/
def Axis.Ticked (c : Config) (raw : Bool) (i : Fin 6) (a b : Axis) : Prop :=
  ∃ a1 a2, (a1 = a.debounce c raw ∨ ∃ v, a1 = (a.debounce c raw).applySetpoint c (c.direction.get i) v)
    ∧ a1.calibrate c (c.direction.get i) = some a2
    ∧ b = (a2.pdIssue c).reported (c.axisId.get i) (c.direction.get i)

theorem tick_axis (limit : Six Bool) (s t : State) (h : tick limit s = .ok t) (i : Fin 6) :
    Axis.Ticked s.cfg (limit.get i) i (s.axis i) (t.axis i) := by
  have hstart : (tickStart limit s).axis i = (s.axis i).debounce s.cfg (limit.get i) := mapAxesIdx_axis ..
  unfold tick at h
  split at h
  · cases h
  · rename_i u hu
    obtain ⟨a2, h2, ht⟩ := (tickAxes_axis axisOrder (by decide) u t h i).2 (by fin_cases i <;> decide)
    obtain ⟨-, -, -, rfl⟩ | ⟨-, rfl⟩ := playback_ok _ u hu
    · have hrow (row : Row) : (applyRow row (tickStart limit s)).axis i
          = ((s.axis i).debounce s.cfg (limit.get i)).applySetpoint s.cfg (s.cfg.direction.get i) (row.get i) :=
        (mapAxesIdx_axis ..).trans (congrArg _ hstart)
      exact ⟨_, a2, .inr ⟨_, rfl⟩, hrow (trajRow s.traj s.trajIndex.toNat) ▸ h2, ht⟩
    · exact ⟨_, a2, .inl rfl, hstart ▸ h2, ht⟩

/-- CAN_DRAIN leaves of each record all that it does not send (R378). -/
theorem canDrain_axis (s : State) (i : Fin 6) :
    ((canDrain s).axis i).progress = (s.axis i).progress ∧ ((canDrain s).axis i).received = (s.axis i).received := by
  refine canDrain_induction
    (fun t => (t.axis i).progress = (s.axis i).progress ∧ (t.axis i).received = (s.axis i).received)
    (fun j t ht => ?_) s ⟨rfl, rfl⟩
  obtain e | ⟨f, rest, -, e⟩ := drainAxis_cases t j
  · rw [e]; exact ht
  · have haxis : (drainAxis t j).axis i = (t.modifyAxis j (Axis.sent t.tickCount f rest)).axis i := by rw [e]; rfl
    obtain e' | e' := modifyAxis_axis_cases t j i (Axis.sent t.tickCount f rest) <;> rw [haxis, e']
    · exact ht
    · exact ht

/-- A received frame leaves the calibration of every axis alone (R375, R376). -/
theorem handleReply_progress (id : CanId) (data : Frame) (act : Axis → Axis) (s : State) (ha : ReplyAction s.cfg act)
    (i : Fin 6) : ((handleReply id data act s).axis i).progress = (s.axis i).progress := by
  refine handleReply_induction (fun t => (t.axis i).progress = (s.axis i).progress) id data act s rfl (fun j => ?_)
    fun j => ?_
  · obtain e | e := modifyAxis_axis_cases s j i fun a => act (a.recordReply s.tickCount data) <;> rw [e]
    exact ha.progress _
  · obtain e | e := modifyAxis_axis_cases s j i fun a => (a.recordReply s.tickCount data).countMotorErr <;> rw [e]
    rfl

theorem recordOnly_progress (id : CanId) (data : Frame) (s : State) (i : Fin 6) :
    ((recordOnly id data s).axis i).progress = (s.axis i).progress := by
  obtain e | ⟨j, e⟩ := recordOnly_cases id data s <;> rw [e]
  · rfl
  · obtain e' | e' := modifyAxis_axis_cases s j i (Axis.recordReply s.tickCount data) <;> rw [e']
    rfl

@[simp] theorem mapAxes_axes (s : State) (f : Axis → Axis) : (s.mapAxes f).axes = s.axes.map f := rfl

@[simp] theorem stopPlaying_axes (s : State) : (stopPlaying s).axes = s.axes.map (Axis.idle s.cfg) := rfl

/-- A dispatched message does to each record what `messageAxis` says (R401-R416). -/
theorem exec_message_axis (i : Instr) (s t : State) (hi : isHostMessage i = true) (h : exec i s = .next t) (j : Fin 6) :
    t.axis j = messageAxis s.cfg s.playing j i (s.axis j) := by
  cases i with
  | heartbeat | connect | pause | enable | play | disable | stop | reset | quit | disconnect =>
    obtain rfl := Host.Outcome.next.inj h; simp [messageAxis, State.axis]
  | upload hd rows =>
    simp only [exec, execUpload] at h
    split at h
    · obtain rfl := Host.Outcome.next.inj h; exact sendNak_axis ..
    · obtain rfl := Host.Outcome.next.inj h; exact sendAck_axis ..
  | ack | nak | feedback | info | unknown => obtain rfl := Host.Outcome.next.inj h; rfl
  | move hd row =>
    simp only [exec, execMove] at h
    split at h
    · rename_i hp
      obtain rfl := Host.Outcome.next.inj h
      exact (sendNak_axis ..).trans (if_pos hp).symm
    · rename_i hp
      obtain rfl := Host.Outcome.next.inj h
      exact (sendAck_axis ..).trans ((mapAxesIdx_axis ..).trans (if_neg hp).symm)
  | _ => cases hi

/-- The record of axis `i` after a step from `s`: what each event that changes records makes of it. -/
inductive AxisStep (s : State) (i : Fin 6) : Axis → Prop
  | kept {b : Axis} (hp : b.progress = (s.axis i).progress) (hr : b.received = (s.axis i).received) : AxisStep s i b
  | dispatched (m : Instr) (hm : isHostMessage m = true) (hd : Dispatches s (rowSelector s.cfg m)) :
      AxisStep s i (messageAxis s.cfg s.playing i m (s.axis i))
  | ticked {b : Axis} (limit : Six Bool) (later : List Event) (hp : s.pending = .tick limit :: later)
      (hb : Axis.Ticked s.cfg (limit.get i) i (s.axis i) b) : AxisStep s i b
  | replied {b : Axis} (id : CanId) (f : Frame) (later : List Event) (hp : s.pending = .canRx id f :: later)
      (hb : b.progress = (s.axis i).progress) : AxisStep s i b
  | reset (later : List Event) (hp : s.pending = .reset :: later) : AxisStep s i (Axis.reset s.cfg)

/-- The parser touches no axis record before it dispatches (R238). -/
theorem awaitStartStep_axes (s : State) : (awaitStartStep s).axes = s.axes := by
  simp only [awaitStartStep]
  split_ifs <;> rfl

theorem awaitHeaderStep_axes (s : State) : (awaitHeaderStep s).axes = s.axes := by
  simp only [awaitHeaderStep, checkHeader]
  split_ifs <;> rfl

theorem footerStep_axes (s : State) : (footerStep s).axes = s.axes := by
  simp only [footerStep, judge_spec]
  split_ifs <;> rfl

theorem step_axis (s t : State) (h : step s = .next t) (i : Fin 6) : AxisStep s i (t.axis i) := by
  have unchanged {u : State} (hu : u.axes = s.axes) : AxisStep s i (u.axis i) := by
    rw [State.axis, hu]; exact .kept rfl rfl
  obtain ⟨-, ho⟩ := step_occurs s t h
  cases ho with
  | rxPoll => exact unchanged rfl
  | scanned => exact unchanged (awaitStartStep_axes _)
  | headerRead => exact unchanged (awaitHeaderStep_axes _)
  | payloadRead => exact unchanged (footerStep_axes _)
  | dropped => exact unchanged rfl
  | dispatched m u hm hd hu =>
    have hu' : u.axis i = messageAxis s.cfg s.playing i m (s.axis i) := exec_message_axis m _ u hm hu i
    exact (hu' ▸ .dispatched m hm hd : AxisStep s i (u.axis i))
  | canDrained =>
    obtain ⟨hp, hr⟩ := canDrain_axis s.consumed i
    exact .kept hp hr
  | offered => exact unchanged rfl
  | ticked limit later t hp ht => exact .ticked limit later hp (tick_axis limit _ t ht i)
  | replied id f later m t hp hm ht =>
    obtain ⟨_, _, _, ha, rfl⟩ := exec_reply m _ t hm ht
    exact .replied id f later hp (handleReply_progress _ _ _ _ ha i)
  | recorded id f later hp => exact .replied id f later hp (recordOnly_progress _ _ _ i)
  | txDrained => exact unchanged rfl
  | reset later hp =>
    have hi : (resetBlock s.consumed).axis i = Axis.reset s.cfg := Six.get_replicate ..
    exact hi ▸ .reset later hp

end Sys2Proof.Machine
end

section
/-! PROOFS. The rules on stages, on `calibrated` and on what CAN_RX writes, each a case split over `AxisStep` (R44, R46,
R47, R49). -/

namespace Sys2Proof.Machine

open Sys2Proof.Laws

theorem Axis.progress_eq_iff (a b : Axis) :
    b.progress = a.progress ↔ b.stage = a.stage ∧ b.calibrated = a.calibrated ∧ b.doCalibration = a.doCalibration := by
  simp only [Axis.progress, Prod.mk.injEq]

/-- A message changes no `calibrated`, and a stage only by ENABLE on an axis that is not calibrated (R402). -/
theorem messageAxis_progress (c : Config) (playing : Bool) (j : Fin 6) (m : Instr) (a : Axis) :
    (messageAxis c playing j m a).calibrated = a.calibrated
      ∧ ((messageAxis c playing j m a).stage = a.stage
        ∨ ((messageAxis c playing j m a).stage = 255 ∧ a.calibrated = false ∧ rowSelector c m = c.msg.enable)) := by
  cases m with
  | enable =>
    have h := a.enable_progress c
    split_ifs at h with hc
    · obtain ⟨hs, hcal, -⟩ := (Axis.progress_eq_iff _ _).1 h
      exact ⟨hcal, .inl hs⟩
    · simp only [Axis.progress, Prod.mk.injEq] at h
      obtain ⟨hs, hcal, -⟩ := h
      exact ⟨hcal, .inr ⟨hs, by simpa using hc, rfl⟩⟩
  | disable =>
    have h := a.disable_progress c
    simp only [Axis.progress, Prod.mk.injEq] at h
    obtain ⟨hs, hcal, -⟩ := h
    exact ⟨hcal, .inl hs⟩
  | move hd row =>
    have h : (messageAxis c playing j (.move hd row) a).progress = a.progress := by
      simp only [messageAxis]
      split_ifs
      · rfl
      · exact a.applySetpoint_progress c _ _
    obtain ⟨hs, hcal, -⟩ := (Axis.progress_eq_iff _ _).1 h
    exact ⟨hcal, .inl hs⟩
  | _ => exact ⟨rfl, .inl rfl⟩

/-- A TICK does at most one stage of calibration on an axis, behind the open gate (R353, R380). -/
theorem Axis.Ticked.progress {c : Config} {raw : Bool} {i : Fin 6} {a b : Axis} (h : Axis.Ticked c raw i a b) :
    b.progress = a.progress
      ∨ a.doCalibration = true ∧ a.calibrated = false
        ∧ ((a.stage, b.stage) ∈ stageOrder ∧ b.calibrated = a.calibrated
          ∨ a.stage = 6 ∧ b.progress = (0, true, false)) := by
  obtain ⟨a1, a2, h1, h2, rfl⟩ := h
  have hbefore : a1.progress = a.progress := by
    obtain rfl | ⟨v, rfl⟩ := h1 <;> simp
  have hafter : ((a2.pdIssue c).reported (c.axisId.get i) (c.direction.get i)).progress = a2.progress := by simp
  obtain ⟨es, ec, -⟩ := (Axis.progress_eq_iff _ _).1 hafter
  obtain ⟨fs, fc, fd⟩ := (Axis.progress_eq_iff _ _).1 hbefore
  obtain rfl | ⟨hd, hc, hstep⟩ := a1.calibrate_some c _ a2 h2
  · exact .inl (hafter.trans hbefore)
  · cases hstep with
    | stays _ hp => exact .inl (hafter.trans (hp.trans hbefore))
    | advances _ hs hcal =>
      rw [es, ec, ← fs, ← fc, ← fd]
      exact .inr ⟨hd, hc, .inl ⟨hs, hcal⟩⟩
    | finishes hs =>
      rw [hafter, ← fs, ← fc, ← fd]
      exact .inr ⟨hd, hc, .inr ⟨hs, rfl⟩⟩

/-- Settles O46: only ENABLE, RESET and a TICK behind the gate move a stage. -/
theorem stageFollowsListedOrder : Obligations.StageFollowsListedOrder := by
  intro s t i h
  have hstep := step_axis s t h i
  generalize t.axis i = b at hstep ⊢
  cases hstep with
  | kept hp => exact .inl (Prod.mk.inj hp).1
  | dispatched m hm hd =>
    obtain ⟨-, hs | ⟨hs, hc, hsel⟩⟩ := messageAxis_progress s.cfg s.playing i m (s.axis i)
    · exact .inl hs
    · exact .inr (.inl ⟨hs, .inr ⟨hsel ▸ hd, hc⟩⟩)
  | ticked limit later hp hb =>
    obtain hb | ⟨hd, hc, ⟨hs, -⟩ | ⟨hs, hfin⟩⟩ := hb.progress
    · exact .inl (Prod.mk.inj hb).1
    · exact .inr (.inr ⟨⟨limit, later, hp⟩, hd, hc, List.mem_append_left [((6 : Byte), (0 : Byte))] hs⟩)
    · refine .inr (.inr ⟨⟨limit, later, hp⟩, hd, hc, ?_⟩)
      rw [hs, (Prod.mk.inj hfin).1]
      decide
  | replied id f later hp hb => exact .inl (Prod.mk.inj hb).1
  | reset later hp => exact .inr (.inl ⟨rfl, .inl ⟨later, hp⟩⟩)

/-- Settles O47: of all events, a TICK on stage 6 and RESET are the two that write `calibrated`. -/
theorem calibratedSetOnlyAtFinish : Obligations.CalibratedSetOnlyAtFinish := by
  intro s t i h hne
  have hstep := step_axis s t h i
  generalize t.axis i = b at hstep hne ⊢
  have changed : b.progress ≠ (s.axis i).progress := fun hp => hne ((Axis.progress_eq_iff _ _).1 hp).2.1
  cases hstep with
  | kept hp => exact absurd hp changed
  | dispatched m => exact absurd (messageAxis_progress s.cfg s.playing i m (s.axis i)).1 hne
  | ticked limit later hp hb =>
    obtain hb | ⟨hd, -, ⟨-, hc⟩ | ⟨hs, hfin⟩⟩ := hb.progress
    · exact absurd hb changed
    · exact absurd hc hne
    · simp only [Axis.progress, Prod.mk.injEq] at hfin
      obtain ⟨hstage, hcal, hdo⟩ := hfin
      exact .inl ⟨⟨limit, later, hp⟩, hs, hd, hcal, hdo, hstage⟩
  | replied id f later hp hb => exact absurd hb changed
  | reset later hp => exact .inr ⟨⟨later, hp⟩, rfl⟩

/-- What CAN_RX alone writes is the same in `b`, and telemetry waits in `b` only where it did in `a` (R123, R384). -/
def Axis.TelemetryKept (a b : Axis) : Prop :=
  b.armed = a.armed ∧ b.theta = a.theta ∧ b.omega = a.omega ∧ b.tau = a.tau ∧ b.temperature = a.temperature
    ∧ b.rxFrame = a.rxFrame ∧ b.rxTs = a.rxTs ∧ b.motorErrCount = a.motorErrCount
    ∧ (b.newTelemetry = true → a.newTelemetry = true)

theorem Axis.TelemetryKept.of_received {a b : Axis} (h : b.received = a.received) : Axis.TelemetryKept a b := by
  simp only [Axis.received, Prod.mk.injEq] at h
  obtain ⟨h1, h2, h3, h4, h5, h6, h7, h8, h9⟩ := h
  exact ⟨h1, h2, h3, h4, h5, h6, h7, h8, fun hb => h9 ▸ hb⟩

theorem Axis.TelemetryKept.trans {a b e : Axis} (h : Axis.TelemetryKept a b) (h' : Axis.TelemetryKept b e) :
    Axis.TelemetryKept a e := by
  obtain ⟨h1, h2, h3, h4, h5, h6, h7, h8, h9⟩ := h
  obtain ⟨k1, k2, k3, k4, k5, k6, k7, k8, k9⟩ := h'
  exact ⟨k1.trans h1, k2.trans h2, k3.trans h3, k4.trans h4, k5.trans h5, k6.trans h6, k7.trans h7, k8.trans h8,
    fun he => h9 (k9 he)⟩

/-- Feedback clears the flag and writes nothing else that CAN_RX writes (R382). -/
theorem Axis.reported_telemetryKept (axisId : Byte) (d : Direction) (a : Axis) :
    Axis.TelemetryKept a (a.reported axisId d) := by
  unfold Axis.reported
  split_ifs
  · exact ⟨rfl, rfl, rfl, rfl, rfl, rfl, rfl, rfl, nofun⟩
  · exact .of_received rfl

theorem Axis.Ticked.telemetryKept {c : Config} {raw : Bool} {i : Fin 6} {a b : Axis} (h : Axis.Ticked c raw i a b) :
    Axis.TelemetryKept a b := by
  obtain ⟨a1, a2, h1, h2, rfl⟩ := h
  have hbefore : a1.received = a.received := by
    obtain rfl | ⟨v, rfl⟩ := h1 <;> simp
  have hcal : a2.received = a1.received := (Prod.mk.inj (a1.calibrate_outside c _ a2 h2)).1
  have hissued : (a2.pdIssue c).received = a.received := (a2.pdIssue_received c).trans (hcal.trans hbefore)
  exact (Axis.TelemetryKept.of_received hissued).trans (Axis.reported_telemetryKept _ _ _)

theorem messageAxis_received (c : Config) (playing : Bool) (j : Fin 6) (m : Instr) (a : Axis) :
    (messageAxis c playing j m a).received = a.received := by
  cases m with
  | enable => exact a.enable_received c
  | disable => exact a.disable_received c
  | move _ row =>
    simp only [messageAxis]
    split_ifs
    · rfl
    · exact a.applySetpoint_received c _ _
  | _ => rfl

/-- Settles O53: neither a TICK nor a message nor CAN_DRAIN writes what a reply does. -/
theorem telemetryWrittenOnlyByCanRx : Obligations.TelemetryWrittenOnlyByCanRx := by
  intro s t i h hcan hreset
  have hstep := step_axis s t h i
  generalize t.axis i = b at hstep ⊢
  change Axis.TelemetryKept (s.axis i) b
  cases hstep with
  | kept _ hr => exact .of_received hr
  | dispatched m => exact .of_received (messageAxis_received _ _ _ m _)
  | ticked limit later hp hb => exact hb.telemetryKept
  | replied id f later hp => exact absurd hp (hcan id f later)
  | reset later hp => exact absurd hp (hreset later)

end Sys2Proof.Machine
end

section
/-! PROOFS. The rules on the parameters and on the committed trajectory (R37, R43, R55, R101): what each event leaves of
them. -/

namespace Sys2Proof.Machine

open Sys2Proof.Laws

/-- The parameters, the trajectory buffer and its length: what no event but UPLOAD and RESET writes (R43, R101). -/
def State.settings (s : State) : Config × Memory × U32 := (s.cfg, s.traj, s.arrayLength)

@[simp] theorem raise_settings (c : Condition) (s : State) : (raise c s).settings = s.settings := by
  simp [State.settings]

@[simp] theorem sendPacket_settings (m dest : Byte) (pl : List Byte) (s : State) :
    (sendPacket m dest pl s).settings = s.settings := by
  simp [State.settings]

@[simp] theorem sendAck_settings (hd : Header) (m : Byte) (s : State) : (sendAck hd m s).settings = s.settings :=
  sendPacket_settings ..

@[simp] theorem sendNak_settings (hd : Header) (m : Byte) (s : State) : (sendNak hd m s).settings = s.settings :=
  sendPacket_settings ..

@[simp] theorem modifyAxis_settings (s : State) (i : Fin 6) (f : Axis → Axis) :
    (s.modifyAxis i f).settings = s.settings := rfl

/-- The parser writes no setting before it dispatches (R238). -/
theorem awaitStartStep_settings (s : State) : (awaitStartStep s).settings = s.settings := by
  simp only [awaitStartStep]
  split_ifs <;> rfl

theorem awaitHeaderStep_settings (s : State) : (awaitHeaderStep s).settings = s.settings := by
  simp only [awaitHeaderStep, checkHeader]
  split_ifs <;> rfl

theorem footerStep_settings (s : State) : (footerStep s).settings = s.settings := by
  simp only [footerStep, judge_spec]
  split_ifs <;> rfl

theorem drainAxis_settings (s : State) (i : Fin 6) : (drainAxis s i).settings = s.settings := by
  obtain e | ⟨f, rest, -, e⟩ := drainAxis_cases s i <;> rw [e]
  rfl

theorem canDrain_settings (s : State) : (canDrain s).settings = s.settings :=
  canDrain_induction (fun t => t.settings = s.settings) (fun i t ht => (drainAxis_settings t i).trans ht) s rfl

theorem playback_settings (s t : State) (h : playback s = .ok t) : t.settings = s.settings := by
  obtain ⟨-, -, -, rfl⟩ | ⟨-, rfl⟩ := playback_ok s t h <;> rfl

theorem tickAxis_settings (i : Fin 6) (s t : State) (h : tickAxis i s = .ok t) : t.settings = s.settings := by
  obtain ⟨a, -, rfl⟩ := tickAxis_ok i s t h
  split_ifs
  · simp [feedbackAxis, sendFeedback]
  · rfl

theorem tick_settings (limit : Six Bool) (s t : State) (h : tick limit s = .ok t) : t.settings = s.settings := by
  unfold tick at h
  split at h
  · cases h
  · rename_i u hu
    have hplayed : u.settings = s.settings := (playback_settings (tickStart limit s) u hu).trans rfl
    exact tickAxes_induction (fun v => v.settings = s.settings)
      (fun i v w hv hw => (tickAxis_settings i v w hw).trans hv) axisOrder u t hplayed h

theorem handleReply_settings (id : CanId) (data : Frame) (act : Axis → Axis) (s : State) :
    (handleReply id data act s).settings = s.settings :=
  handleReply_induction (fun t => t.settings = s.settings) id data act s rfl (fun _ => rfl) fun _ => rfl

theorem recordOnly_settings (id : CanId) (data : Frame) (s : State) :
    (recordOnly id data s).settings = s.settings := by
  obtain e | ⟨i, e⟩ := recordOnly_cases id data s <;> rw [e] <;> rfl

/-- Of the host messages only UPLOAD writes a setting, and it writes no parameter (R101, R407). -/
theorem exec_message_settings (i : Instr) (s t : State) (hi : isHostMessage i = true) (h : exec i s = .next t) :
    t.settings = s.settings ∨ rowSelector s.cfg i = s.cfg.msg.upload ∧ t.cfg = s.cfg := by
  cases i with
  | heartbeat | connect | enable | play | pause | stop | disable | reset | quit | disconnect =>
    obtain rfl := Host.Outcome.next.inj h; exact .inl (by simp [State.settings])
  | upload hd rows =>
    simp only [exec, execUpload] at h
    split at h
    · obtain rfl := Host.Outcome.next.inj h; exact .inr ⟨rfl, (sendNak_cfg ..).trans (raise_cfg ..)⟩
    · obtain rfl := Host.Outcome.next.inj h; exact .inr ⟨rfl, sendAck_cfg ..⟩
  | ack | nak | feedback | info | unknown => obtain rfl := Host.Outcome.next.inj h; exact .inl rfl
  | move hd row =>
    simp only [exec, execMove] at h
    split at h
    · obtain rfl := Host.Outcome.next.inj h; exact .inl ((sendNak_settings ..).trans (raise_settings ..))
    · obtain rfl := Host.Outcome.next.inj h; exact .inl (sendAck_settings ..)
  | _ => cases hi

/-- What a step does to the settings: it keeps them, or dispatches an UPLOAD, or is RESET; the parameters stay in any
case. -/
theorem step_settings (s t : State) (h : step s = .next t) :
    t.settings = s.settings
      ∨ t.cfg = s.cfg ∧ (Dispatches s s.cfg.msg.upload ∨ ∃ later, s.pending = .reset :: later) := by
  obtain ⟨-, ho⟩ := step_occurs s t h
  cases ho with
  | rxPoll | dropped | offered | txDrained => exact .inl rfl
  | scanned => exact .inl (awaitStartStep_settings s.consumed)
  | headerRead => exact .inl (awaitHeaderStep_settings s.consumed)
  | payloadRead => exact .inl (footerStep_settings (drainPayload s.consumed))
  | dispatched i u hi hd hu =>
    obtain hk | ⟨hsel, hc⟩ := exec_message_settings i _ u hi hu
    · exact .inl hk
    · exact .inr ⟨hc, .inl (hsel ▸ hd : Dispatches s s.cfg.msg.upload)⟩
  | canDrained => exact .inl (canDrain_settings s.consumed)
  | ticked limit later t hp ht => exact .inl (tick_settings limit s.consumed t ht)
  | replied id f later i t hp hi ht =>
    obtain ⟨_, _, _, -, rfl⟩ := exec_reply i _ t hi ht
    exact .inl (handleReply_settings _ _ _ s.consumed)
  | recorded id f => exact .inl (recordOnly_settings id f s.consumed)
  | reset later hp => exact .inr ⟨rfl, .inr ⟨later, hp⟩⟩

/-- Settles O55: a setting that changes is never a parameter. -/
theorem parametersNeverChange : Obligations.ParametersNeverChange := by
  intro s t h
  obtain hk | ⟨hc, -⟩ := step_settings s t h
  · exact (Prod.mk.inj hk).1
  · exact hc

/-- Settles O54: a step that is not RESET and changes the trajectory changes a setting, so it dispatches an UPLOAD. -/
theorem trajectoryWrittenOnlyByUpload : Obligations.TrajectoryWrittenOnlyByUpload := by
  intro s t h hreset hchanged
  obtain hk | ⟨-, hd | ⟨later, hp⟩⟩ := step_settings s t h
  · simp only [State.settings, Prod.mk.injEq] at hk
    obtain ⟨-, htraj, hlen⟩ := hk
    exact absurd hchanged (not_or.2 ⟨not_not.2 htraj, not_not.2 hlen⟩)
  · exact hd
  · exact absurd hp (hreset later)

end Sys2Proof.Machine
end

section
/-! PROOFS. The work of a PARSE_STEP (R121, R238, R256): in a state that meets the invariant it always answers a next
state, whichever parser state it finds. -/

namespace Sys2Proof.Machine

/-- No instruction faults or is refused: UPLOAD and MOVE choose between ACK and NAK, and the others have one outcome
(R400, R375). -/
theorem exec_answers (i : Instr) (s : State) : ∃ t, exec i s = .next t := by
  cases i with
  | upload hd rows =>
    simp only [exec, execUpload]
    split_ifs <;> exact ⟨_, rfl⟩
  | move hd row =>
    simp only [exec, execMove]
    split_ifs <;> exact ⟨_, rfl⟩
  | _ => exact ⟨_, rfl⟩

/-- The drain stays inside PB: what it reads ends within the payload, which fits (R34, R250). -/
theorem awaitPayloadStep_of_inv (s : State) (h : s.Inv) : awaitPayloadStep s = .ok (footerStep (drainPayload s)) :=
  if_neg (Nat.not_lt.2 ((drainSize_le s h).trans h.payloadSize))

/-- A complete packet passed the size check with its header, so it decodes (R246, R256). -/
theorem fetchMessage_of_inv (s : State) (h : s.Inv) (hs : s.pstate = .packetComplete) :
    ∃ i, fetchMessage s = .ok i := by
  obtain ⟨-, hsize⟩ := h.admitted (.inr hs)
  exact decodeMessage_of_sizeOk _ _ _ _ (by rwa [payloadBytes, Memory.length_readBytes])

/-- The PacketComplete step executes the instruction the packet holds (R256). -/
theorem packetCompleteStep_of_valid (s : State) (i : Instr) (hv : s.info.isValid = true) (hi : fetchMessage s = .ok i) :
    packetCompleteStep s = mapNext (fun t => { t with pstate := .awaitStart }) (exec i s) := by
  rw [packetCompleteStep, if_pos hv, hi]

/-- A packet that is not valid is dropped: only the parser moves (R256). -/
theorem packetCompleteStep_of_not_valid (s : State) (hv : s.info.isValid = false) :
    packetCompleteStep s = .next { s with pstate := .awaitStart } := by
  rw [packetCompleteStep, if_neg (Bool.eq_false_iff.1 hv)]

theorem packetCompleteStep_answers (s : State) (h : s.Inv) (hs : s.pstate = .packetComplete) :
    ∃ t, packetCompleteStep s = .next t := by
  cases hv : s.info.isValid with
  | false => exact ⟨_, packetCompleteStep_of_not_valid s hv⟩
  | true =>
    obtain ⟨i, hi⟩ := fetchMessage_of_inv s h hs
    obtain ⟨t, ht⟩ := exec_answers i s
    exact ⟨_, (packetCompleteStep_of_valid s i hv hi).trans ((mapNext_next _ _ _).2 ⟨t, ht, rfl⟩)⟩

/-! The four parser states, one equation each (R238). -/

theorem parseStep_awaitStart (s : State) (hs : s.pstate = .awaitStart) : parseStep s = .next (awaitStartStep s) := by
  rw [parseStep, hs]

theorem parseStep_awaitHeader (s : State) (hs : s.pstate = .awaitHeader) :
    parseStep s = .next (awaitHeaderStep s) := by
  rw [parseStep, hs]

theorem parseStep_awaitPayloadCrc (s : State) (hs : s.pstate = .awaitPayloadCrc) :
    parseStep s = ofExcept (awaitPayloadStep s) := by
  rw [parseStep, hs]

theorem parseStep_packetComplete (s : State) (hs : s.pstate = .packetComplete) :
    parseStep s = packetCompleteStep s := by
  rw [parseStep, hs]

/-- From a state that meets the invariant, a PARSE_STEP answers a next state (R238). -/
theorem parseStep_answers (s : State) (h : s.Inv) : ∃ t, parseStep s = .next t := by
  cases hs : s.pstate with
  | awaitStart => exact ⟨_, parseStep_awaitStart s hs⟩
  | awaitHeader => exact ⟨_, parseStep_awaitHeader s hs⟩
  | awaitPayloadCrc =>
    exact ⟨_, (parseStep_awaitPayloadCrc s hs).trans ((ofExcept_next _ _).2 (awaitPayloadStep_of_inv s h))⟩
  | packetComplete =>
    obtain ⟨t, ht⟩ := packetCompleteStep_answers s h hs
    exact ⟨t, (parseStep_packetComplete s hs).trans ht⟩

/-- Where PARSE_STEP comes next and the parser answers, that is the step, with the main loop moved on to CAN_DRAIN
(R121). -/
theorem step_of_parseStep (s t : State) (later : List Event) (hv : s.cfg.valid = true)
    (hp : (s.pending = [] ∧ later = []) ∨ s.pending = .mainLoop :: later) (hslot : s.slot = .parseStep)
    (ht : parseStep { s with pending := later } = .next t) : step s = .next { t with slot := .canDrain } := by
  rw [step_mainLoop s later hv hp, mainLoopStep_parseStep { s with pending := later } hslot]
  exact (mapNext_next _ _ _).2 ⟨t, ht, rfl⟩

/-- Settles O24: the schedule entry consumed is nothing the parser or the invariant reads. -/
theorem invalidPacketNotDispatched : Obligations.InvalidPacketNotDispatched := by
  intro s later hv hp hslot
  refine ⟨fun t => step_of_parseStep s t later hv hp hslot, fun h => parseStep_answers _ h.unread, ?_⟩
  intro hs hinvalid
  have hparse : parseStep { s with pending := later } = .next { s with pending := later, pstate := .awaitStart } :=
    (parseStep_packetComplete { s with pending := later } hs).trans (packetCompleteStep_of_not_valid _ hinvalid)
  exact step_of_parseStep s _ later hv hp hslot hparse

end Sys2Proof.Machine
end

section
/-! PROOFS. CAN_RX on a frame whose byte 0 is no opcode (R176, R375, R447). -/

namespace Sys2Proof.Machine

/-- An update of one axis record is a change of that axis only. -/
theorem modifyAxis_onlyAxisChanged (s : State) (i : Fin 6) (f : Axis → Axis) :
    OnlyAxisChanged s (s.modifyAxis i f) i (f (s.axis i)) :=
  ⟨rfl, modifyAxis_axis_self s i f, fun j hj => modifyAxis_axis_ne s i j f hj⟩

/-- A CAN_RX entry of the schedule is the next event, with the entry consumed (R120). -/
theorem step_canRx (s : State) (id : CanId) (f : Frame) (later : List Event) (hv : s.cfg.valid = true)
    (hp : s.pending = .canRx id f :: later) : step s = canRx id f { s with pending := later } := by
  simp only [step, nextEvent, if_pos hv, hp, runEvent]

/-- A frame with a reserved byte 0 does not decode, so it is only recorded (R176, R375). -/
theorem canRx_reserved (id : CanId) (f : Frame) (s : State) (h : f.b0 ∉ s.cfg.op.toList) :
    canRx id f s = .next (recordOnly id f s) := by
  rw [canRx, decodeFrame_reserved s.cfg id f h]

/-- The raw record goes to the axis whose CAN_ID the frame carries (R177, R375). -/
theorem recordOnly_canId (f : Frame) (s : State) (i : Fin 6) (hv : s.cfg.valid = true) :
    recordOnly (s.cfg.canId.get i) f s = s.modifyAxis i (Axis.recordReply s.tickCount f) := by
  rw [recordOnly, axisOfCanId_canId s.cfg i hv]

/-- With an identifier that is no axis's CAN_ID the frame is only counted (R447). -/
theorem recordOnly_unknownId (id : CanId) (f : Frame) (s : State) (h : ∀ i, s.cfg.canId.get i ≠ id) :
    recordOnly id f s = raise .canUnknownId s := by
  rw [recordOnly, (axisOfCanId_none s.cfg id).2 h]

/-- Settles O20: the step is `recordOnly` on the state with the event consumed, and the identifier decides which of its
two outcomes that is. -/
theorem reservedOpcodeRecordedRaw : Obligations.ReservedOpcodeRecordedRaw := by
  intro s id f later hv hp hreserved
  have hstep : step s = .next (recordOnly id f { s with pending := later }) :=
    (step_canRx s id f later hv hp).trans (canRx_reserved id f { s with pending := later } hreserved)
  constructor
  · rintro i rfl
    rw [recordOnly_canId f { s with pending := later } i hv] at hstep
    exact ⟨_, hstep, modifyAxis_onlyAxisChanged _ i _⟩
  · intro hunknown
    rw [recordOnly_unknownId id f { s with pending := later } hunknown] at hstep
    exact hstep

end Sys2Proof.Machine
end

section
/-! PROOFS. The ring-buffer operations of R211 in terms of content, and the two events at the byte ports (R207, R209). -/

namespace Sys2Proof.Machine

theorem u32_toNat (x : U32) : u32 x.toNat = x := by
  simp [u32]

/-- `push` (R201) is the transfer of one byte by `writeBytes` (R204); both leave a full ring as it is. -/
theorem Ring.push_fst (n : Nat) (r : Ring) (b : Byte) (h : Ring.wf n r = true) :
    (Ring.push n r b).1 = (Ring.writeBytes n r [b]).1 := by
  obtain ⟨hcount, hhead, -⟩ := (Ring.wf_iff n r).1 h
  by_cases hfull : r.count.toNat = n
  · have hfits : min [b].length (Ring.free n r) = 0 := by rw [Ring.free, hfull, Nat.sub_self, Nat.min_zero]
    simp only [Ring.push, if_pos hfull, Ring.writeBytes, hfits, List.take_zero, Ring.store, Nat.add_zero,
      Nat.mod_eq_of_lt hhead, u32_toNat]
  · have hfits : min [b].length (Ring.free n r) = 1 := by
      rw [Ring.free, List.length_singleton]; omega
    have hcount1 : r.count + 1 = u32 (r.count.toNat + 1) := by simp [u32, BitVec.ofNat_add]
    simp only [Ring.push, if_neg hfull, Ring.writeBytes, hfits, List.take_succ_cons, List.take_zero, Ring.store,
      hcount1]

/-- `push` accepts its byte exactly where there is a free place (R201). -/
theorem Ring.push_accepted (n : Nat) (r : Ring) (b : Byte) (h : Ring.wf n r = true) :
    (if (Ring.push n r b).2 then [b] else []) = [b].take (n - r.count.toNat) := by
  obtain ⟨hcount, -⟩ := (Ring.wf_iff n r).1 h
  by_cases hfull : r.count.toNat = n
  · simp [Ring.push, hfull]
  · rw [List.take_of_length_le (by rw [List.length_singleton]; omega)]
    simp [Ring.push, hfull]

/-- `writeBytes` accepts what fits (R204). -/
theorem Ring.writeBytes_accepted (n : Nat) (r : Ring) (src : List Byte) :
    src.take (Ring.writeBytes n r src).2 = src.take (n - r.count.toNat) := by
  rw [Ring.writeBytes, Ring.free, Nat.min_comm, ← List.take_take, List.take_length]

/-- One operation of R211 keeps the ring well formed and moves bytes only from the front of the content and to its
end. -/
theorem RingOp.apply_fifo (n : Nat) (r : Ring) (o : RingOp) (hn : n < 2 ^ 32) (h : Ring.wf n r = true) :
    let a := RingOp.apply n r o
    Ring.wf n a.1 = true ∧ a.2.2 ++ Ring.content n a.1 = Ring.content n r ++ a.2.1 := by
  cases o with
  | push b =>
    simp only [RingOp.apply, List.nil_append, Ring.push_fst n r b h, Ring.push_accepted n r b h]
    exact ⟨Ring.wf_writeBytes n r [b] hn h, Ring.content_writeBytes n r [b] hn h⟩
  | pop =>
    obtain ⟨hpop, -⟩ | ⟨b, r', hpop, hwf, hcontent, -⟩ := Ring.pop_cases n r hn h
    · simp [RingOp.apply, hpop, h]
    · simp [RingOp.apply, hpop, hwf, hcontent]
  | readBytes want =>
    simp only [RingOp.apply, List.append_nil, Ring.readBytes_fst, Ring.content_readBytes n r want hn h,
      List.take_append_drop, and_true]
    exact Ring.wf_readBytes n r want hn h
  | writeBytes src =>
    simp only [RingOp.apply, List.nil_append, Ring.writeBytes_accepted]
    exact ⟨Ring.wf_writeBytes n r src hn h, Ring.content_writeBytes n r src hn h⟩

/-- Settles O33, by induction on the operations: each hands the next a well-formed ring. -/
theorem ringIsFifo : Obligations.RingIsFifo := by
  intro n r os hn h
  induction os generalizing r with
  | nil => exact ⟨h, (List.append_nil _).symm⟩
  | cons o rest ih =>
    obtain ⟨hwf, hfirst⟩ := RingOp.apply_fifo n r o hn h
    obtain ⟨hwf', hrest⟩ := ih (RingOp.apply n r o).1 hwf
    refine ⟨hwf', ?_⟩
    simp only [RingOp.applyAll]
    rw [List.append_assoc, hrest, ← List.append_assoc, hfirst, List.append_assoc]

/-- RX_POLL's turn of the main loop; PARSE_STEP comes next (R121). -/
theorem mainLoopStep_rxPoll (s : State) (hs : s.slot = .rxPoll) :
    mainLoopStep s = .next { rxPoll s with slot := .parseStep } := by
  rw [mainLoopStep, hs]

/-- RX_POLL offers RB.RX no more than fits, so all of it is stored (R207, R208). -/
theorem content_rxPoll (s : State) (hcap : s.cfg.rxCap < 2 ^ 32) (hwf : Ring.wf s.cfg.rxCap s.rx = true) :
    Ring.content s.cfg.rxCap (rxPoll s).rx
      = Ring.content s.cfg.rxCap s.rx ++ s.rxIn.take (min s.rxIn.length (s.cfg.rxCap - s.rx.count.toNat)) := by
  rw [rxPoll, Ring.content_writeBytes _ _ _ hcap hwf, Ring.free, List.take_of_length_le]
  rw [List.length_take]
  omega

/-- Settles O34. -/
theorem rxPollTakesWhatFits : Obligations.RxPollTakesWhatFits := by
  intro s later h hp hslot
  have hcap : s.cfg.rxCap < 2 ^ 32 := (s.cfg.valid_ringCaps h.valid).2.1
  have hstep : step s = .next { rxPoll { s with pending := later } with slot := .parseStep } :=
    (step_mainLoop s later h.valid hp).trans (mainLoopStep_rxPoll { s with pending := later } hslot)
  exact ⟨_, hstep, rfl, content_rxPoll { s with pending := later } hcap h.rxRing⟩

/-- A TX_DRAIN entry of the schedule is the next event, with the entry consumed (R120). -/
theorem step_txDrain (s : State) (k : Nat) (later : List Event) (hv : s.cfg.valid = true)
    (hp : s.pending = .txDrain k :: later) : step s = .next (txDrain k { s with pending := later }) := by
  simp only [step, nextEvent, if_pos hv, hp, runEvent]

/-- What TX_DRAIN delivers on TX_OUT, in terms of content (R209). -/
theorem txDrain_eq (k : Nat) (s : State) :
    txDrain k s = { s with
      tx := (Ring.readBytes s.cfg.txCap s.tx k).2
      txOut := s.txOut ++ (Ring.content s.cfg.txCap s.tx).take k } := by
  rw [txDrain, Ring.readBytes_fst]

/-- Settles O35. -/
theorem txDrainDeliversOldest : Obligations.TxDrainDeliversOldest := by
  intro s k later h hp
  have hcap : s.cfg.txCap < 2 ^ 32 := (s.cfg.valid_ringCaps h.valid).2.2.2
  have hstep := step_txDrain s k later h.valid hp
  rw [txDrain_eq k { s with pending := later }] at hstep
  exact ⟨_, hstep, rfl, Ring.content_readBytes _ _ k hcap h.txRing⟩

end Sys2Proof.Machine
end

section
/-! PROOFS. PARSE_STEP events in a row (R238, R257), and the one that dispatches a complete packet (R256). -/

namespace Sys2Proof.Machine

/-- The work of each parser state keeps the invariant. -/
theorem parseStep_inv (s t : State) (h : s.Inv) (ht : parseStep s = .next t) : t.Inv := by
  obtain ⟨-, rfl⟩ | ⟨hs, rfl⟩ | ⟨hs, -, rfl⟩ | ⟨-, -, rfl⟩ | ⟨-, -, i, u, -, hu, rfl⟩ := parseStep_cases s t ht
  · exact awaitStartStep_inv h
  · exact awaitHeaderStep_inv s h hs
  · exact footerStep_inv _ (drainPayload_inv s h hs) hs
  · exact h.toAwaitStart
  · exact (exec_inv i h hu).toAwaitStart

theorem parseRun_inv (n : Nat) (s t : State) (h : s.Inv) (ht : parseRun n s = .next t) : t.Inv := by
  induction n generalizing s with
  | zero => cases ht; exact h
  | succ n ih =>
    rw [parseRun] at ht
    split at ht
    · rename_i u hu
      exact ih u (parseStep_inv s u h hu) ht
    · cases ht
    · cases ht

theorem parseRun_succ (n : Nat) (s t : State) (h : parseStep s = .next t) : parseRun (n + 1) s = parseRun n t := by
  rw [parseRun, h]

theorem parseRun_one (s : State) (t : State) (h : parseStep s = .next t) : parseRun 1 s = .next t :=
  parseRun_succ 0 s t h

/-- A run in two parts. -/
theorem parseRun_add (m n : Nat) (s t : State) (h : parseRun m s = .next t) : parseRun (m + n) s = parseRun n t := by
  induction m generalizing s with
  | zero => cases h; rw [Nat.zero_add]
  | succ m ih =>
    rw [parseRun] at h
    split at h
    · rename_i u hu
      rw [Nat.add_right_comm, parseRun_succ _ s u hu]
      exact ih u h
    · cases h
    · cases h

/-- The step on a valid complete packet executes its instruction and returns the parser to AwaitStart (R256). -/
theorem parseStep_dispatches (s t : State) (i : Instr) (hs : s.pstate = .packetComplete) (hv : s.info.isValid = true)
    (hi : fetchMessage s = .ok i) (ht : exec i s = .next t) : parseStep s = .next { t with pstate := .awaitStart } :=
  calc parseStep s = packetCompleteStep s := parseStep_packetComplete s hs
    _ = mapNext (fun u => { u with pstate := .awaitStart }) (exec i s) := packetCompleteStep_of_valid s i hv hi
    _ = .next { t with pstate := .awaitStart } := (mapNext_next _ _ _).2 ⟨t, ht, rfl⟩

/-- Settles O22: the schedule entry consumed is nothing that `fetchMessage` reads, and every instruction answers. -/
theorem stepRunsCompletedMessage : Obligations.StepRunsCompletedMessage := by
  intro s i later hv hp hslot hs hvalid hi
  obtain ⟨t, ht⟩ := exec_answers i { s with pending := later }
  have hparse := parseStep_dispatches { s with pending := later } t i hs hvalid hi ht
  exact ⟨t, ht, step_of_parseStep s _ later hv hp hslot hparse⟩

end Sys2Proof.Machine
end

section
/-! PROOFS. AwaitStart (R206, R239, R240): what the scan of RB.RX finds, in terms of content. -/

namespace Sys2Proof.Machine

theorem Ring.pop_of_content_nil (n : Nat) (r : Ring) (hn : n < 2 ^ 32) (h : Ring.wf n r = true)
    (hc : Ring.content n r = []) : Ring.pop n r = none := by
  obtain ⟨hpop, -⟩ | ⟨b, r', -, -, hcons, -⟩ := Ring.pop_cases n r hn h
  · exact hpop
  · rw [hc] at hcons; cases hcons

theorem Ring.pop_of_content_cons (n : Nat) (r : Ring) (b : Byte) (bs : List Byte) (hn : n < 2 ^ 32)
    (h : Ring.wf n r = true) (hc : Ring.content n r = b :: bs) :
    ∃ r', Ring.pop n r = some (b, r') ∧ Ring.wf n r' = true ∧ Ring.content n r' = bs := by
  obtain ⟨-, hnil⟩ | ⟨b', r', hpop, hwf, hcons, -⟩ := Ring.pop_cases n r hn h
  · rw [hc] at hnil; cases hnil
  · obtain ⟨rfl, hbs⟩ := List.cons.inj (hcons.symm.trans hc)
    exact ⟨r', hpop, hwf, hbs⟩

/-- One turn of the scan on a byte that is not the marker (R206). -/
theorem Ring.consumeLoop_skip (n : Nat) (marker : Byte) (fuel : Nat) (r : Ring) (b : Byte) (bs : List Byte) (d : Nat)
    (hn : n < 2 ^ 32) (h : Ring.wf n r = true) (hc : Ring.content n r = b :: bs) (hb : b ≠ marker) :
    ∃ r', Ring.consumeLoop n marker (fuel + 1) r d = Ring.consumeLoop n marker fuel r' (d + 1)
      ∧ Ring.wf n r' = true ∧ Ring.content n r' = bs := by
  obtain ⟨r', hpop, hwf, hbs⟩ := Ring.pop_of_content_cons n r b bs hn h hc
  exact ⟨r', by rw [Ring.consumeLoop, hpop]; exact if_neg hb, hwf, hbs⟩

/-- With a marker in the ring, the scan discards what is before the first one and takes the marker (R206). -/
theorem Ring.consumeLoop_found (n : Nat) (marker : Byte) (fuel : Nat) (r : Ring) (junk rest : List Byte) (d : Nat)
    (hn : n < 2 ^ 32) (h : Ring.wf n r = true) (hc : Ring.content n r = junk ++ marker :: rest)
    (hjunk : marker ∉ junk) (hfuel : junk.length < fuel) :
    ∃ r', Ring.consumeLoop n marker fuel r d = (true, d + junk.length, r') ∧ Ring.content n r' = rest := by
  induction junk generalizing fuel r d with
  | nil =>
    obtain ⟨fuel, rfl⟩ : ∃ k, fuel = k + 1 := ⟨fuel - 1, (Nat.sub_add_cancel hfuel).symm⟩
    obtain ⟨r', hpop, -, hrest⟩ := Ring.pop_of_content_cons n r marker rest hn h hc
    exact ⟨r', by rw [Ring.consumeLoop, hpop]; exact if_pos rfl, hrest⟩
  | cons b junk ih =>
    obtain ⟨fuel, rfl⟩ : ∃ k, fuel = k + 1 := ⟨fuel - 1, by rw [List.length_cons] at hfuel; omega⟩
    obtain ⟨hb, hjunk⟩ := not_or.1 (mt List.mem_cons.2 hjunk)
    obtain ⟨r1, hskip, hwf, hc1⟩ := Ring.consumeLoop_skip n marker fuel r b _ d hn h hc (Ne.symm hb)
    obtain ⟨r', hloop, hrest⟩ := ih fuel r1 (d + 1) hwf hc1 hjunk (Nat.lt_of_succ_lt_succ hfuel)
    refine ⟨r', ?_, hrest⟩
    rw [hskip, hloop, List.length_cons, Nat.add_assoc, Nat.add_comm 1]

/-- Without a marker in the ring, the scan discards everything (R206). -/
theorem Ring.consumeLoop_notFound (n : Nat) (marker : Byte) (fuel : Nat) (r : Ring) (junk : List Byte) (d : Nat)
    (hn : n < 2 ^ 32) (h : Ring.wf n r = true) (hc : Ring.content n r = junk) (hjunk : marker ∉ junk)
    (hfuel : junk.length ≤ fuel) :
    ∃ r', Ring.consumeLoop n marker fuel r d = (false, d + junk.length, r') ∧ Ring.content n r' = [] := by
  induction junk generalizing fuel r d with
  | nil =>
    refine ⟨r, ?_, hc⟩
    cases fuel with
    | zero => rfl
    | succ fuel => rw [Ring.consumeLoop, Ring.pop_of_content_nil n r hn h hc]; rfl
  | cons b junk ih =>
    obtain ⟨fuel, rfl⟩ : ∃ k, fuel = k + 1 := ⟨fuel - 1, by rw [List.length_cons] at hfuel; omega⟩
    obtain ⟨hb, hjunk⟩ := not_or.1 (mt List.mem_cons.2 hjunk)
    obtain ⟨r1, hskip, hwf, hc1⟩ := Ring.consumeLoop_skip n marker fuel r b _ d hn h hc (Ne.symm hb)
    obtain ⟨r', hloop, hempty⟩ := ih fuel r1 (d + 1) hwf hc1 hjunk (Nat.le_of_succ_le_succ hfuel)
    refine ⟨r', ?_, hempty⟩
    rw [hskip, hloop, List.length_cons, Nat.add_assoc, Nat.add_comm 1]

/-- A start marker is buffered: the bytes before it are counted, and a cycle begins on those behind it (R239, R240). -/
theorem awaitStartStep_found (s : State) (junk rest : List Byte) (h : s.Inv) (hjunk : s.cfg.startMarker ∉ junk)
    (hc : Ring.content s.cfg.rxCap s.rx = junk ++ s.cfg.startMarker :: rest) :
    ∃ r, awaitStartStep s = beginCycle (raise (.discard junk.length) { s with rx := r })
      ∧ Ring.content s.cfg.rxCap r = rest := by
  have hfuel : junk.length < s.rx.count.toNat := by
    rw [← Ring.length_content s.cfg.rxCap, hc, List.length_append, List.length_cons]; omega
  obtain ⟨r, hloop, hrest⟩ := Ring.consumeLoop_found _ _ _ _ junk rest 0 (s.cfg.valid_ringCaps h.valid).2.1 h.rxRing
    hc hjunk hfuel
  rw [Nat.zero_add] at hloop
  refine ⟨r, ?_, hrest⟩
  simp only [awaitStartStep, Ring.consumeUntil, hloop, if_true]

/-- No start marker is buffered: everything is counted and dropped (R239). -/
theorem awaitStartStep_notFound (s : State) (h : s.Inv)
    (hjunk : s.cfg.startMarker ∉ Ring.content s.cfg.rxCap s.rx) :
    ∃ r, awaitStartStep s = raise (.discard s.rx.count.toNat) { s with rx := r }
      ∧ Ring.content s.cfg.rxCap r = [] := by
  obtain ⟨r, hloop, hempty⟩ := Ring.consumeLoop_notFound _ _ s.rx.count.toNat _ _ 0 (s.cfg.valid_ringCaps h.valid).2.1
    h.rxRing rfl hjunk (Ring.length_content _ _).le
  rw [Nat.zero_add, Ring.length_content] at hloop
  refine ⟨r, ?_, hempty⟩
  simp [awaitStartStep, Ring.consumeUntil, hloop]

/-- Settles O37. -/
theorem scanFindsStartMarker : Obligations.ScanFindsStartMarker := by
  constructor
  · intro s junk rest h hs hjunk hc
    obtain ⟨r, hstep, hrest⟩ := awaitStartStep_found s junk rest h hjunk hc
    exact ⟨_, (parseStep_awaitStart s hs).trans (congrArg _ hstep), hrest, rfl⟩
  · intro s h hs hjunk
    obtain ⟨r, hstep, hempty⟩ := awaitStartStep_notFound s h hjunk
    rw [raise, u32_toNat] at hstep
    exact ⟨_, (parseStep_awaitStart s hs).trans (congrArg _ hstep), hempty, rfl⟩

end Sys2Proof.Machine
end

section
/-! PROOFS. AwaitHeader (R244-R247): the eleven bytes, and the three outcomes of the checks. -/

namespace Sys2Proof.Machine

/-- Eleven bytes or more are buffered: the header is read from the first eleven and checked (R244). -/
theorem awaitHeaderStep_of_header (s : State) (hb rest : List Byte) (h : s.Inv) (hlen : hb.length = 11)
    (hc : Ring.content s.cfg.rxCap s.rx = hb ++ rest) :
    ∃ r, awaitHeaderStep s = checkHeader (readHeader hb { s with rx := r })
      ∧ Ring.content s.cfg.rxCap r = rest := by
  have hcount : ¬ s.rx.count.toNat < headerSize := by
    rw [← Ring.length_content s.cfg.rxCap, hc, List.length_append, hlen, headerSize]; omega
  have hread : (Ring.readBytes s.cfg.rxCap s.rx headerSize).1 = hb := by
    rw [Ring.readBytes_fst, hc, headerSize, ← hlen, List.take_left]
  refine ⟨(Ring.readBytes s.cfg.rxCap s.rx headerSize).2, ?_, ?_⟩
  · simp only [awaitHeaderStep, if_neg hcount, hread]
  · rw [Ring.content_readBytes _ _ _ (s.cfg.valid_ringCaps h.valid).2.1 h.rxRing, hc, headerSize, ← hlen,
      List.drop_left]

theorem checkHeader_lengthError (s : State)
    (hlen : s.info.length.toNat < s.cfg.overhead ∨ s.cfg.maxPacketSize < s.info.length.toNat) :
    checkHeader s = { raise .lengthError s with pstate := .awaitStart } :=
  if_pos hlen

theorem checkHeader_sizeError (s : State)
    (hlen : ¬ (s.info.length.toNat < s.cfg.overhead ∨ s.cfg.maxPacketSize < s.info.length.toNat))
    (hsize : ¬ sizeOk s.cfg s.info.msgId (s.info.length.toNat - s.cfg.overhead) = true) :
    checkHeader s =
      { raise .sizeError
          { s with info := { s.info with payloadSize := u32 (s.info.length.toNat - s.cfg.overhead) } } with
        pstate := .awaitStart } :=
  (if_neg hlen).trans (if_pos (by simpa using hsize))

theorem checkHeader_admitted (s : State)
    (hlen : ¬ (s.info.length.toNat < s.cfg.overhead ∨ s.cfg.maxPacketSize < s.info.length.toNat))
    (hsize : sizeOk s.cfg s.info.msgId (s.info.length.toNat - s.cfg.overhead) = true) :
    checkHeader s =
      { s with
        info := { s.info with payloadSize := u32 (s.info.length.toNat - s.cfg.overhead) }
        pstate := .awaitPayloadCrc } :=
  (if_neg hlen).trans (if_neg (by simpa using hsize))

/-- Settles O38: the descriptor is empty before the header is read, and `checkHeader` has three outcomes. -/
theorem headerStepOutcomes : Obligations.HeaderStepOutcomes := by
  intro s hb rest h hs hlen hc
  have hempty := h.header hs
  obtain ⟨r, hstep, hrest⟩ := awaitHeaderStep_of_header s hb rest h hlen hc
  have hparse := (parseStep_awaitHeader s hs).trans (congrArg _ hstep)
  by_cases hlength : (wordAt hb 0).toNat < s.cfg.overhead ∨ s.cfg.maxPacketSize < (wordAt hb 0).toNat
  · rw [checkHeader_lengthError (readHeader hb { s with rx := r }) hlength] at hparse
    simp only [if_pos hlength]
    exact ⟨_, hparse, hrest, rfl, rfl, by simp [readHeader, raise, hempty, PacketInfo.empty], rfl⟩
  · simp only [if_neg hlength]
    by_cases hsize : sizeOk s.cfg (hb.getD 10 0) ((wordAt hb 0).toNat - s.cfg.overhead) = true
    · rw [checkHeader_admitted (readHeader hb { s with rx := r }) hlength hsize] at hparse
      simp only [if_pos hsize]
      exact ⟨_, hparse, hrest, rfl, by simp [readHeader, hempty, PacketInfo.empty], rfl, rfl⟩
    · rw [checkHeader_sizeError (readHeader hb { s with rx := r }) hlength hsize] at hparse
      simp only [if_neg hsize]
      exact ⟨_, hparse, hrest, rfl, by simp [readHeader, raise, hempty, PacketInfo.empty], rfl, rfl⟩

end Sys2Proof.Machine
end

section
/-! PROOFS. AwaitPayloadCrc (R250-R254): `drained` is the state after some payload bytes, and a step ends there or goes on
to judge the footer. -/

namespace Sys2Proof.Machine

/-- `s` after the payload bytes `bs` were taken, with `r` left of RB.RX (R250). -/
def drained (s : State) (r : Ring) (bs : List Byte) : State :=
  { s with
    rx := r
    crc := crc32Fold s.crc bs
    pb := Memory.writeBytes s.pb s.payloadRead.toNat bs
    payloadRead := u32 (s.payloadRead.toNat + bs.length) }

@[simp] theorem drained_cfg (s : State) (r : Ring) (bs : List Byte) : (drained s r bs).cfg = s.cfg := rfl

theorem Memory.writeBytes_append (m : Memory) (off : Nat) (a b : List Byte) :
    Memory.writeBytes m off (a ++ b) = Memory.writeBytes (Memory.writeBytes m off a) (off + a.length) b := by
  induction a generalizing m off with
  | nil => rfl
  | cons x a ih =>
    rw [List.cons_append, Memory.writeBytes, Memory.writeBytes, ih, List.length_cons, Nat.add_right_comm, Nat.add_assoc]

theorem drained_nil (s : State) : drained s s.rx [] = s := by
  rw [drained, List.length_nil, Nat.add_zero, u32_toNat]
  rfl

/-- Two runs of payload bytes taken one after the other are one run, where `payloadRead` does not wrap (R232, R250). -/
theorem drained_drained (s : State) (r r' : Ring) (a b : List Byte) (hwrap : s.payloadRead.toNat + a.length < 2 ^ 32) :
    drained (drained s r a) r' b = drained s r' (a ++ b) := by
  simp only [drained, toNat_u32 _ hwrap, crc32Fold_append, Memory.writeBytes_append, List.length_append, Nat.add_assoc]

/-- The drain of one step, as `drained` (R250). -/
theorem drainPayload_eq_drained (s : State) (h : s.Inv) :
    drainPayload s = drained s (drainPayload s).rx ((Ring.content s.cfg.rxCap s.rx).take (drainSize s)) := by
  have hk : ((Ring.content s.cfg.rxCap s.rx).take (drainSize s)).length = drainSize s := by
    rw [List.length_take, Nat.min_eq_left]
    rw [drainSize_eq]; omega
  rw [drained, hk]
  exact (drainPayload_spec s h).1

/-- The footer is not due while payload is outstanding or less than a footer is buffered (R251). -/
theorem footerStep_waits (s : State)
    (hwait : s.payloadRead.toNat < s.info.payloadSize.toNat ∨ s.rx.count.toNat < s.cfg.footerSize) : footerStep s = s :=
  if_pos hwait

theorem footerStep_judges (s : State)
    (hdue : ¬ (s.payloadRead.toNat < s.info.payloadSize.toNat ∨ s.rx.count.toNat < s.cfg.footerSize)) :
    footerStep s = judge ((Ring.content s.cfg.rxCap s.rx).take s.cfg.footerSize)
      { s with rx := (Ring.readBytes s.cfg.rxCap s.rx s.cfg.footerSize).2 } := by
  rw [← Ring.readBytes_fst]
  exact if_neg hdue

/-- In a state that meets the invariant, an AwaitPayloadCrc step is the drain and then the footer (R250, R251). -/
theorem parseStep_payload (s : State) (h : s.Inv) (hs : s.pstate = .awaitPayloadCrc) :
    parseStep s = .next (footerStep (drainPayload s)) :=
  (parseStep_awaitPayloadCrc s hs).trans ((ofExcept_next _ _).2 (awaitPayloadStep_of_inv s h))

/-- When the footer is due after the drain, in terms of what was there before it. -/
theorem footer_due_iff (s : State) (h : s.Inv) :
    ((drainPayload s).payloadRead.toNat < (drainPayload s).info.payloadSize.toNat
        ∨ (drainPayload s).rx.count.toNat < (drainPayload s).cfg.footerSize)
      ↔ s.payloadRead.toNat + drainSize s < s.info.payloadSize.toNat
        ∨ (Ring.content s.cfg.rxCap s.rx).length - drainSize s < s.cfg.footerSize := by
  obtain ⟨e, hc, -⟩ := drainPayload_spec s h
  have hwrap : s.payloadRead.toNat + drainSize s < 2 ^ 32 :=
    (drainSize_le s h).trans_lt s.info.payloadSize.isLt
  have hread : (drainPayload s).payloadRead.toNat = s.payloadRead.toNat + drainSize s := by
    rw [e]; exact toNat_u32 _ hwrap
  have hcount : (drainPayload s).rx.count.toNat = (Ring.content s.cfg.rxCap s.rx).length - drainSize s := by
    rw [← Ring.length_content s.cfg.rxCap, hc, List.length_drop]
  rw [hread, hcount]
  exact Iff.rfl

/-- A step after which the footer is not due: some payload bytes are taken and the parser stays (R250, R251). -/
theorem parseStep_stays (s : State) (h : s.Inv) (hs : s.pstate = .awaitPayloadCrc)
    (hwait : s.payloadRead.toNat + drainSize s < s.info.payloadSize.toNat
      ∨ (Ring.content s.cfg.rxCap s.rx).length - drainSize s < s.cfg.footerSize) :
    ∃ r, parseStep s = .next (drained s r ((Ring.content s.cfg.rxCap s.rx).take (drainSize s)))
      ∧ Ring.content s.cfg.rxCap r = (Ring.content s.cfg.rxCap s.rx).drop (drainSize s) := by
  refine ⟨(drainPayload s).rx, ?_, (drainPayload_spec s h).2.1⟩
  rw [parseStep_payload s h hs, footerStep_waits _ ((footer_due_iff s h).2 hwait), ← drainPayload_eq_drained s h]

/-- A step in which the footer is due: the rest of the payload and the footer are taken, and the packet is judged
(R251, R252). -/
theorem parseStep_judges (s : State) (h : s.Inv) (hs : s.pstate = .awaitPayloadCrc)
    (hdue : ¬ (s.payloadRead.toNat + drainSize s < s.info.payloadSize.toNat
      ∨ (Ring.content s.cfg.rxCap s.rx).length - drainSize s < s.cfg.footerSize)) :
    ∃ r, parseStep s = .next (judge (((Ring.content s.cfg.rxCap s.rx).drop (drainSize s)).take s.cfg.footerSize)
        (drained s r ((Ring.content s.cfg.rxCap s.rx).take (drainSize s))))
      ∧ Ring.content s.cfg.rxCap r = (Ring.content s.cfg.rxCap s.rx).drop (drainSize s + s.cfg.footerSize) := by
  obtain ⟨-, hc, hwf⟩ := drainPayload_spec s h
  have hcap := (s.cfg.valid_ringCaps h.valid).2.1
  refine ⟨(Ring.readBytes s.cfg.rxCap (drainPayload s).rx s.cfg.footerSize).2, ?_, ?_⟩
  · rw [parseStep_payload s h hs, footerStep_judges _ (mt (footer_due_iff s h).1 hdue), drainPayload_eq_drained s h]
    simp only [drained, hc]
  · rw [Ring.content_readBytes _ _ _ hcap hwf, hc, List.drop_drop]

theorem footerCrcOk_iff (crc : U32) (f : List Byte) : footerCrcOk crc f = true ↔ wordAt f 0 = crc32Final crc :=
  beq_iff_eq

theorem footerEndOk_iff (c : Config) (f : List Byte) :
    footerEndOk c f = true ↔ c.hasEndMarker = false ∨ f.getD 4 0 = c.endMarker := by
  rw [footerEndOk, Bool.or_eq_true, Bool.not_eq_true', beq_iff_eq]

/-- The verdict (R252): the CRC over what was folded, and the end marker where the layout has one. -/
theorem judge_isValid (f : List Byte) (s : State) :
    (judge f s).info.isValid = true
      ↔ wordAt f 0 = crc32Final s.crc ∧ (s.cfg.hasEndMarker = false ∨ f.getD 4 0 = s.cfg.endMarker) := by
  rw [judge_spec, ← footerCrcOk_iff, ← footerEndOk_iff, ← Bool.and_eq_true]

/-- What the verdict counts (R253, R450). -/
theorem judge_counters (f : List Byte) (s : State) :
    (judge f s).counters =
      if wordAt f 0 = crc32Final s.crc then
        if s.cfg.hasEndMarker = false ∨ f.getD 4 0 = s.cfg.endMarker then
          { s.counters with rxOkCount := s.counters.rxOkCount + 1 }
        else { s.counters with rxEndErrCount := s.counters.rxEndErrCount + 1 }
      else { s.counters with
        rxCrcErrCount := s.counters.rxCrcErrCount + 1
        lastExpectedCrc := wordAt f 0
        lastComputedCrc := crc32Final s.crc } := by
  rw [judge_spec]
  simp only [footerCrcOk_iff, footerEndOk_iff]

@[simp] theorem judge_rx (f : List Byte) (s : State) : (judge f s).rx = s.rx := by rw [judge_spec]
@[simp] theorem judge_pb (f : List Byte) (s : State) : (judge f s).pb = s.pb := by rw [judge_spec]
@[simp] theorem judge_pstate (f : List Byte) (s : State) : (judge f s).pstate = .packetComplete := by rw [judge_spec]

/-- A judged packet: what the step that takes the last payload bytes and the footer writes (R250-R254). -/
theorem judge_drained (f : List Byte) (s : State) (r : Ring) (bs : List Byte)
    (hall : s.payloadRead.toNat + bs.length = s.info.payloadSize.toNat) :
    judge f (drained s r bs) = { s with
      rx := r
      crc := crc32Fold s.crc bs
      pb := Memory.writeBytes s.pb s.payloadRead.toNat bs
      payloadRead := s.info.payloadSize
      pstate := .packetComplete
      info := { s.info with isValid := (judge f (drained s r bs)).info.isValid }
      counters := (judge f (drained s r bs)).counters } := by
  rw [judge_spec, drained, hall, u32_toNat]

/-- What is in PB after a run of payload bytes: the run at `payloadRead`, and every other byte as before (R250). -/
theorem drained_pb (s : State) (r : Ring) (bs : List Byte) (h : s.Inv) :
    Memory.readBytes (drained s r bs).pb s.payloadRead.toNat bs.length = bs
      ∧ ∀ a, a < s.payloadRead.toNat ∨ s.payloadRead.toNat + bs.length ≤ a →
        Memory.read (drained s r bs).pb a = Memory.read s.pb a := by
  have hwf := (Bool.and_eq_true_iff.1 h.payloadBuffer).1
  refine ⟨Memory.readBytes_writeBytes _ _ _ hwf, fun a ha => ?_⟩
  rw [drained, Memory.read_writeBytes _ _ _ _ hwf, if_neg (by omega)]

/-- A parser that lacks the bytes it needs stays as it is (R244, R258). -/
theorem parseStep_waits (s : State) (h : s.Inv)
    (hlacks : (s.pstate = .awaitHeader ∧ s.rx.count.toNat < 11)
      ∨ (s.pstate = .awaitPayloadCrc ∧ s.rx.count.toNat < s.cfg.footerSize
          ∧ (s.rx.count = 0 ∨ s.payloadRead = s.info.payloadSize))) :
    parseStep s = .next s := by
  obtain ⟨hs, hcount⟩ | ⟨hs, hcount, hnothing⟩ := hlacks
  · rw [parseStep_awaitHeader s hs, awaitHeaderStep, headerSize, if_pos hcount]
  · have hk : drainSize s = 0 := by
      obtain hzero | hread := hnothing
      · simp [drainSize, hzero]
      · simp [drainSize, hread]
    rw [parseStep_payload s h hs, drainPayload_eq_self s h hk, footerStep_waits s (.inr hcount)]

/-- Settles O39: `parseStep_waits`, and the two ways an AwaitPayloadCrc step can end. -/
theorem incompletePacketWaits : Obligations.IncompletePacketWaits := by
  refine ⟨parseStep_waits, ?_⟩
  intro s h hs buffered start size k
  have hk : drainSize s = k := drainSize_eq s
  have hlen : (buffered.take k).length = k := by
    rw [List.length_take, Nat.min_eq_left]; omega
  have hle := drainSize_le s h
  have hstay := parseStep_stays s h hs
  have hjudge := parseStep_judges s h hs
  rw [hk] at hle hstay hjudge
  by_cases hwait : start + k < size ∨ buffered.length - k < s.cfg.footerSize
  · obtain ⟨r, hstep, hrest⟩ := hstay hwait
    obtain ⟨hpb, hother⟩ := drained_pb s r (buffered.take k) h
    have hframe : drained s r (buffered.take k) =
        { s with
          rx := r
          crc := crc32Fold s.crc (buffered.take k)
          pb := (drained s r (buffered.take k)).pb
          payloadRead := u32 (start + k) } := by
      rw [drained, hlen]
    rw [hlen] at hpb hother
    simp only [if_pos hwait]
    exact ⟨_, hstep, hpb, hother, hrest, hframe⟩
  · obtain ⟨r, hstep, hrest⟩ := hjudge hwait
    obtain ⟨hpb, hother⟩ := drained_pb s r (buffered.take k) h
    have hframe := judge_drained ((buffered.drop k).take s.cfg.footerSize) s r (buffered.take k) (by omega)
    rw [hlen] at hpb hother
    simp only [if_neg hwait]
    refine ⟨_, hstep, ?_, ?_, ?_, ?_, judge_isValid _ _, judge_counters _ _⟩
    · rw [judge_pb]; exact hpb
    · rw [judge_pb]; exact hother
    · rw [judge_rx]; exact hrest
    · rw [judge_rx, judge_pb]; exact hframe

end Sys2Proof.Machine
end

section
/-! PROOFS. A packet that is whole in RB.RX (R252-R257): `Draining` is what every AwaitPayloadCrc step but the last keeps,
so the steps are counted and the verdict found by one induction. -/

namespace Sys2Proof.Machine

/-- A payload of `p` bytes is not read before its last step (R257). -/
theorem lt_payloadSteps (c : Config) (p j : Nat) (hw : 1 ≤ c.scratchWindow) (hj : j < payloadSteps c p) :
    j = 0 ∨ j * c.scratchWindow < p := by
  obtain hj | hj := lt_max_iff.1 hj
  · exact .inl (Nat.lt_one_iff.1 hj)
  · have hmul := (Nat.le_div_iff_mul_le hw).1 hj
    rw [Nat.succ_mul] at hmul
    exact .inr (by omega)

/-- The payload steps suffice for a payload of `p` bytes (R257). -/
theorem le_payloadSteps_mul (c : Config) (p : Nat) (hw : 1 ≤ c.scratchWindow) :
    p ≤ payloadSteps c p * c.scratchWindow := by
  have hceil : p + c.scratchWindow - 1 < ((p + c.scratchWindow - 1) / c.scratchWindow + 1) * c.scratchWindow := by
    rw [Nat.mul_comm]; exact Nat.lt_mul_div_succ _ hw
  rw [Nat.succ_mul] at hceil
  calc p ≤ (p + c.scratchWindow - 1) / c.scratchWindow * c.scratchWindow := by omega
    _ ≤ payloadSteps c p * c.scratchWindow := Nat.mul_le_mul_right _ (Nat.le_max_right _ _)

/-- The payload bytes `more` are outstanding and stand at the head of RB.RX, with the footer `ft` behind them. -/
structure Draining (s : State) (more ft rest : List Byte) : Prop where
  inv : s.Inv
  atPayload : s.pstate = .awaitPayloadCrc
  outstanding : s.payloadRead.toNat + more.length = s.info.payloadSize.toNat
  footerLength : ft.length = s.cfg.footerSize
  bytes : Ring.content s.cfg.rxCap s.rx = more ++ (ft ++ rest)

namespace Draining

variable {s : State} {more ft rest : List Byte} (h : Draining s more ft rest)

include h

/-- A step takes a window of the payload, or what is left of it (R250). -/
theorem drainSize_eq_min : drainSize s = min more.length s.cfg.scratchWindow := by
  have hsize := h.outstanding
  rw [drainSize_eq, h.bytes, List.length_append]
  omega

/-- `payloadRead` does not wrap before the payload is read (R34). -/
theorem read_lt (n : Nat) : s.payloadRead.toNat + (more.take n).length < 2 ^ 32 := by
  have := h.outstanding
  have := s.info.payloadSize.isLt
  rw [List.length_take]
  omega

/-- With more than a window outstanding, a step takes a window and the parser stays (R250, R251). -/
theorem parseStep_window (hmore : s.cfg.scratchWindow < more.length) :
    ∃ r, parseStep s = .next (drained s r (more.take s.cfg.scratchWindow))
      ∧ Draining (drained s r (more.take s.cfg.scratchWindow)) (more.drop s.cfg.scratchWindow) ft rest := by
  have hk : drainSize s = s.cfg.scratchWindow := by rw [h.drainSize_eq_min]; omega
  have hsize := h.outstanding
  obtain ⟨r, hstep, hrest⟩ := parseStep_stays s h.inv h.atPayload (.inl (by omega))
  rw [hk, h.bytes, List.take_append_of_le_length hmore.le] at hstep
  rw [hk, h.bytes, List.drop_append_of_le_length hmore.le] at hrest
  refine ⟨r, hstep, parseStep_inv s _ h.inv hstep, h.atPayload, ?_, h.footerLength, hrest⟩
  have hwrap := h.read_lt s.cfg.scratchWindow
  rw [List.length_take_of_le hmore.le] at hwrap
  simp only [drained, List.length_take_of_le hmore.le, List.length_drop, toNat_u32 _ hwrap]
  omega

/-- With no more than a window outstanding, a step takes payload and footer and judges the packet (R251, R252). -/
theorem parseStep_last (hmore : more.length ≤ s.cfg.scratchWindow) :
    ∃ r, parseStep s = .next (judge ft (drained s r more)) ∧ Ring.content s.cfg.rxCap r = rest := by
  have hk : drainSize s = more.length := by rw [h.drainSize_eq_min]; omega
  have hsize := h.outstanding
  have hfooter := h.footerLength
  have hdue : ¬ (s.payloadRead.toNat + drainSize s < s.info.payloadSize.toNat
      ∨ (Ring.content s.cfg.rxCap s.rx).length - drainSize s < s.cfg.footerSize) := by
    rw [h.bytes, List.length_append, List.length_append]; omega
  obtain ⟨r, hstep, hrest⟩ := parseStep_judges s h.inv h.atPayload hdue
  rw [hk, h.bytes, List.drop_left, List.take_left, ← hfooter, List.take_left] at hstep
  rw [hk, h.bytes, ← List.drop_drop, List.drop_left, ← hfooter, List.drop_left] at hrest
  exact ⟨r, hstep, hrest⟩

/-- The first `j` payload steps, none of them the last, take `j` windows (R250, R257). -/
theorem parseRun_windows (j : Nat) (hj : j = 0 ∨ j * s.cfg.scratchWindow < more.length) :
    ∃ r, parseRun j s = .next (drained s r (more.take (j * s.cfg.scratchWindow)))
      ∧ Draining (drained s r (more.take (j * s.cfg.scratchWindow))) (more.drop (j * s.cfg.scratchWindow)) ft rest := by
  induction j with
  | zero =>
    rw [Nat.zero_mul, List.take_zero, List.drop_zero]
    exact ⟨s.rx, by rw [drained_nil]; rfl, by rw [drained_nil]; exact h⟩
  | succ j ih =>
    have hnext : j * s.cfg.scratchWindow + s.cfg.scratchWindow < more.length := by
      rw [← Nat.succ_mul]; exact hj.resolve_left (Nat.succ_ne_zero j)
    obtain ⟨r, hrun, hdraining⟩ := ih (.inr (by omega))
    obtain ⟨r', hstep, hdraining'⟩ := hdraining.parseStep_window (by
      rw [List.length_drop]; exact Nat.lt_sub_of_add_lt (by rw [Nat.add_comm]; exact hnext))
    have htaken : drained (drained s r (more.take (j * s.cfg.scratchWindow))) r'
          ((more.drop (j * s.cfg.scratchWindow)).take s.cfg.scratchWindow)
        = drained s r' (more.take ((j + 1) * s.cfg.scratchWindow)) := by
      rw [drained_drained _ _ _ _ _ (h.read_lt _), Nat.succ_mul, List.take_add]
    have hleft : (more.drop (j * s.cfg.scratchWindow)).drop s.cfg.scratchWindow
        = more.drop ((j + 1) * s.cfg.scratchWindow) := by
      rw [List.drop_drop, Nat.succ_mul]
    rw [drained_cfg, htaken] at hstep hdraining'
    rw [hleft] at hdraining'
    exact ⟨r', (parseRun_add j 1 s _ hrun).trans (parseRun_one _ _ hstep), hdraining'⟩

/-- All the payload steps: the payload is taken, and the last of them judges the packet (R251, R257). -/
theorem parseRun_payloadSteps :
    ∃ r, parseRun (payloadSteps s.cfg more.length) s = .next (judge ft (drained s r more))
      ∧ Ring.content s.cfg.rxCap r = rest := by
  obtain ⟨-, -, hw⟩ := s.cfg.valid_packetSizes h.inv.valid
  obtain ⟨j, hj⟩ : ∃ j, payloadSteps s.cfg more.length = j + 1 :=
    ⟨_, (Nat.sub_add_cancel (Nat.le_max_left _ _)).symm⟩
  have hcover := le_payloadSteps_mul s.cfg more.length hw
  rw [hj, Nat.succ_mul] at hcover
  have hbefore : j = 0 ∨ j * s.cfg.scratchWindow < more.length := lt_payloadSteps s.cfg _ j hw (by omega)
  obtain ⟨r, hrun, hdraining⟩ := h.parseRun_windows j hbefore
  obtain ⟨r', hstep, hrest⟩ := hdraining.parseStep_last (by
    rw [List.length_drop]; exact Nat.sub_le_of_le_add (by rw [Nat.add_comm]; exact hcover))
  rw [drained_drained _ _ _ _ _ (h.read_lt _), List.take_append_drop] at hstep
  exact ⟨r', by rw [hj, parseRun_add j 1 s _ hrun, parseRun_one _ _ hstep], hrest⟩

end Draining

/-- `s` with a header of `p` payload bytes accepted and `r` left of RB.RX (R240, R244, R247). -/
def headerAccepted (s : State) (r : Ring) (hb : List Byte) (p : Nat) : State :=
  { s with
    rx := r
    pstate := .awaitPayloadCrc
    crc := crc32Fold 0xFFFFFFFF (s.cfg.startMarker :: hb)
    payloadRead := 0
    info := ⟨wordAt hb 0, wordAt hb 4, u32 p, hb.getD 8 0, hb.getD 9 0, hb.getD 10 0, false⟩ }

namespace Buffered

variable {s : State} {hb pl ft rest : List Byte} (h : s.Inv) (hp : Buffered s hb pl ft rest)

include h hp

/-- A payload length is a u32 (R9). -/
theorem length_lt : pl.length < 2 ^ 32 := by
  have := hp.fits
  have := s.cfg.valid_packetSizes h.valid
  omega

/-- The AwaitStart step: nothing stands before the start marker, so nothing is discarded (R239, R240). -/
theorem parseStep_start :
    ∃ r, parseStep s = .next (beginCycle { s with rx := r })
      ∧ Ring.content s.cfg.rxCap r = hb ++ (pl ++ (ft ++ rest)) := by
  obtain ⟨r, hstep, hrest⟩ := awaitStartStep_found s [] (hb ++ (pl ++ (ft ++ rest))) h List.not_mem_nil
    (by rw [hp.bytes]; simp)
  have hcount : raise (.discard 0) { s with rx := r } = { s with rx := r } := by simp [raise, u32]
  rw [List.length_nil, hcount] at hstep
  exact ⟨r, (parseStep_awaitStart s hp.atStart).trans (congrArg _ hstep), hrest⟩

/-- The AwaitStart and the AwaitHeader step: the header passes both checks (R244-R247). -/
theorem parseRun_two :
    ∃ r, parseRun 2 s = .next (headerAccepted s r hb pl.length)
      ∧ Draining (headerAccepted s r hb pl.length) pl ft rest := by
  obtain ⟨r, hstart, hc⟩ := hp.parseStep_start h
  have hbegun : (beginCycle { s with rx := r }).Inv := parseStep_inv s _ h hstart
  obtain ⟨r', hheader, hrest⟩ := awaitHeaderStep_of_header _ hb _ hbegun hp.headerLength hc
  have hdeclared := hp.declared
  have hfits := hp.fits
  have hsize : (wordAt hb 0).toNat - s.cfg.overhead = pl.length := by omega
  have hstep : parseStep (beginCycle { s with rx := r }) = .next (headerAccepted s r' hb pl.length) := by
    rw [parseStep_awaitHeader _ rfl, hheader, checkHeader_admitted]
    · simp only [readHeader, beginCycle, PacketInfo.empty, hsize]
      rfl
    · change ¬ ((wordAt hb 0).toNat < s.cfg.overhead ∨ s.cfg.maxPacketSize < (wordAt hb 0).toNat)
      omega
    · change sizeOk s.cfg (hb.getD 10 0) ((wordAt hb 0).toNat - s.cfg.overhead) = true
      rw [hsize]; exact hp.admitted
  refine ⟨r', by rw [parseRun_succ 1 s _ hstart, parseRun_one _ _ hstep], parseStep_inv _ _ hbegun hstep, rfl, ?_,
    hp.footerLength, hrest⟩
  exact (Nat.zero_add _).trans (toNat_u32 _ (hp.length_lt h)).symm

/-- The whole packet: header, payload and footer are taken, and the packet is judged (R252, R257). -/
theorem parseRun_judged :
    ∃ r r', parseRun (2 + payloadSteps s.cfg pl.length) s
        = .next (judge ft (drained (headerAccepted s r hb pl.length) r' pl))
      ∧ Draining (headerAccepted s r hb pl.length) pl ft rest
      ∧ Ring.content s.cfg.rxCap r' = rest := by
  obtain ⟨r, hrun, hdraining⟩ := hp.parseRun_two h
  obtain ⟨r', hjudged, hrest⟩ := hdraining.parseRun_payloadSteps
  exact ⟨r, r', (parseRun_add 2 _ s _ hrun).trans hjudged, hdraining, hrest⟩

end Buffered

/-- The CRC after the payload of an accepted header is that of start marker, header and payload (R232, R252). -/
theorem drained_headerAccepted_crc (s : State) (r r' : Ring) (hb pl : List Byte) (p : Nat) :
    (drained (headerAccepted s r hb p) r' pl).crc = crc32Fold 0xFFFFFFFF ([s.cfg.startMarker] ++ hb ++ pl) := by
  rw [crc32Fold_append]; rfl

/-- Settles O40. -/
theorem bufferedPacketVerdict : Obligations.BufferedPacketVerdict := by
  intro s hb pl ft rest h hp
  obtain ⟨r, r', hrun, hdraining, hrest⟩ := hp.parseRun_judged h
  have hcrc := drained_headerAccepted_crc s r r' hb pl pl.length
  have hframe := judge_drained ft _ r' pl hdraining.outstanding
  have hvalid := judge_isValid ft (drained (headerAccepted s r hb pl.length) r' pl)
  have hcounters := judge_counters ft (drained (headerAccepted s r hb pl.length) r' pl)
  obtain ⟨hpb, hother⟩ := drained_pb (headerAccepted s r hb pl.length) r' pl hdraining.inv
  rw [hcrc] at hvalid hcounters
  refine ⟨_, hrun, ?_, ?_, ?_, ?_, hvalid, hcounters⟩
  · rw [judge_rx]; exact hrest
  · rw [judge_pb]; exact hpb
  · intro a ha
    rw [judge_pb]
    exact hother a (.inr (by rw [show (headerAccepted s r hb pl.length).payloadRead = 0 from rfl]; simpa using ha))
  · rw [judge_rx, judge_pb, ← hcrc]; exact hframe

/-- The PacketComplete step, valid packet or not, returns to AwaitStart (R256). -/
theorem parseStep_complete (s t : State) (hs : s.pstate = .packetComplete) (ht : parseStep s = .next t) :
    t.pstate = .awaitStart := by
  obtain ⟨hs', -⟩ | ⟨hs', -⟩ | ⟨hs', -⟩ | ⟨-, -, rfl⟩ | ⟨-, -, i, u, -, -, rfl⟩ := parseStep_cases s t ht
  · cases hs.symm.trans hs'
  · cases hs.symm.trans hs'
  · cases hs.symm.trans hs'
  · rfl
  · rfl

/-- Settles O41, by which of the five stretches of the run `k` ends in. -/
theorem packetStepCount : Obligations.PacketStepCount := by
  intro s hb pl ft rest k h hp hk
  obtain ⟨-, -, hw⟩ := s.cfg.valid_packetSizes h.valid
  have hpos : 1 ≤ payloadSteps s.cfg pl.length := Nat.le_max_left _ _
  obtain hk0 | hk1 | ⟨j, hj, hkj⟩ | hkc | hke : k = 0 ∨ k = 1 ∨ (∃ j, j < payloadSteps s.cfg pl.length ∧ k = 2 + j)
      ∨ k = 2 + payloadSteps s.cfg pl.length ∨ k = 2 + payloadSteps s.cfg pl.length + 1 := by
    by_cases hmid : 2 ≤ k ∧ k < 2 + payloadSteps s.cfg pl.length
    · exact .inr (.inr (.inl ⟨k - 2, by omega, by omega⟩))
    · omega
  · exact ⟨s, by rw [hk0]; rfl, by rw [if_pos hk0]; exact hp.atStart⟩
  · obtain ⟨r, hstart, -⟩ := hp.parseStep_start h
    exact ⟨_, by rw [hk1]; exact parseRun_one s _ hstart, by rw [if_neg (by omega), if_pos hk1]; rfl⟩
  · obtain ⟨r, hheader, hdraining⟩ := hp.parseRun_two h
    obtain ⟨r', hrun, hdraining'⟩ := hdraining.parseRun_windows j (lt_payloadSteps s.cfg _ j hw hj)
    refine ⟨_, by rw [hkj, parseRun_add 2 j s _ hheader]; exact hrun, ?_⟩
    rw [if_neg (by omega), if_neg (by omega), if_pos (by omega)]
    exact hdraining'.atPayload
  · obtain ⟨r, r', hjudged, -⟩ := hp.parseRun_judged h
    refine ⟨_, by rw [hkc]; exact hjudged, ?_⟩
    rw [if_neg (by omega), if_neg (by omega), if_neg (by omega), if_pos hkc]
    exact judge_pstate _ _
  · obtain ⟨r, r', hjudged, -⟩ := hp.parseRun_judged h
    obtain ⟨t, ht⟩ := parseStep_answers _ (parseRun_inv _ s _ h hjudged)
    refine ⟨t, by rw [hke, parseRun_add _ 1 s _ hjudged]; exact parseRun_one _ t ht, ?_⟩
    rw [if_neg (by omega), if_neg (by omega), if_neg (by omega), if_neg (by omega)]
    exact parseStep_complete _ t (judge_pstate _ _) ht

end Sys2Proof.Machine
end

section
/-! PROOFS. Encoded host messages (R150-R166, R400): the payload of each kind has an admitted size and decodes to the
message. -/

namespace Sys2Proof

theorem feedbackOfBytes_feedbackToBytes (fb : Feedback) : feedbackOfBytes (feedbackToBytes fb) = fb := by
  simp [feedbackOfBytes, feedbackToBytes, wordAt, bytesLe32]

/-- The fields of an ACK or NAK payload are read back (R163). -/
theorem answer_answerToBytes (q : U32) (m : Byte) :
    wordAt (answerToBytes q m) 0 = q ∧ (answerToBytes q m)[4]?.getD 0#8 = m :=
  ⟨wordAt_bytesLe32 q [m], rfl⟩

/-- A field of row `r` is read back from the bytes of all rows (R104). -/
theorem wordAt_rowsToBytes (rows : List Row) (r o : Nat) (hr : r < rows.length) (ho : o + 3 < 24) :
    wordAt (rowsToBytes rows) (24 * r + o) = wordAt (rowToBytes rows[r]) o := by
  simp only [wordAt, Nat.add_assoc]
  rw [getD_rowsToBytes rows r o hr (by omega), getD_rowsToBytes rows r (o + 1) hr (by omega),
    getD_rowsToBytes rows r (o + 2) hr (by omega), getD_rowsToBytes rows r (o + 3) hr (by omega)]

/-- Row `r` is read back from the bytes of all rows (R104). -/
theorem rowAt_rowsToBytes (rows : List Row) (r : Nat) (hr : r < rows.length) :
    rowAt (rowsToBytes rows) r = rows[r] :=
  calc rowAt (rowsToBytes rows) r = rowAt (rowToBytes rows[r]) 0 :=
        congrArg Six.tabulate (funext fun i => by
          rw [wordAt_rowsToBytes rows r (4 * i.val) hr (by omega), Nat.mul_zero, Nat.zero_add])
    _ = rows[r] := rowAt_rowToBytes rows[r]

/-- The rows of an UPLOAD payload are read back (R164). -/
theorem rows_rowsToBytes (rows : List Row) :
    (List.range rows.length).map (rowAt (rowsToBytes rows)) = rows := by
  refine List.ext_getElem (by simp) fun r h1 h2 => ?_
  rw [List.getElem_map, List.getElem_range, rowAt_rowsToBytes rows r h2]

/-- `pl` is the payload of the host message `i`, with header `h` and message id `m`. -/
structure Carries (c : Config) (i : Instr) (h : Header) (m : Byte) (pl : List Byte) : Prop where
  encoded : encode c i = .packet (packetBytes c h m pl)
  fits : pl.length ≤ c.maxPayload
  admitted : sizeOk c m pl.length = true
  decoded : decodeMessage c h m pl = .ok i

/-- Every well-formed host message is carried by a payload; the ids of R160 tell the kinds apart. -/
theorem exists_carries (c : Config) (i : Instr) (bs : List Byte) (hv : c.valid = true)
    (hwf : i.wellFormed c = true) (hbs : encode c i = .packet bs) : ∃ h m pl, Carries c i h m pl := by
  have hids := c.messages_ne hv
  simp only [MsgIds.toList, List.reverse_cons, List.reverse_nil, List.nil_append, List.cons_append, List.nodup_cons,
    List.mem_cons, List.not_mem_nil, or_false, not_or] at hids
  cases i with
  | heartbeat h p | enable h p | play h p | pause h p | stop h p | disable h p | reset h p | quit h p | connect h p
  | disconnect h p | info h p =>
    exact ⟨h, _, p, rfl, of_decide_eq_true hwf, by simp [sizeOk, hids], by simp [decodeMessage, sizeOk, hids]⟩
  | upload h rows =>
    exact ⟨h, _, rowsToBytes rows, rfl, (length_rowsToBytes rows).trans_le (of_decide_eq_true hwf),
      by simp [sizeOk, hids], by simp [decodeMessage, sizeOk, hids, rows_rowsToBytes]⟩
  | ack h q m | nak h q m =>
    exact ⟨h, _, answerToBytes q m, rfl, of_decide_eq_true hwf, by simp [sizeOk],
      by simp [decodeMessage, sizeOk, hids, answer_answerToBytes]⟩
  | move h row =>
    exact ⟨h, _, rowToBytes row, rfl, of_decide_eq_true hwf, by simp [sizeOk, hids],
      by simp [decodeMessage, sizeOk, hids, rowAt_rowToBytes]⟩
  | feedback h fb =>
    exact ⟨h, _, feedbackToBytes fb, rfl, of_decide_eq_true hwf, by simp [sizeOk, hids],
      by simp [decodeMessage, sizeOk, hids, feedbackOfBytes_feedbackToBytes]⟩
  | unknown h m p =>
    obtain ⟨hm, hp⟩ := Bool.and_eq_true_iff.1 hwf
    have hother := of_decide_eq_true hm
    simp only [MsgIds.named, List.mem_cons, List.not_mem_nil, or_false, not_or] at hother
    exact ⟨h, m, p, rfl, of_decide_eq_true hp, by simp [sizeOk, hother], by simp [decodeMessage, sizeOk, hother]⟩
  | _ => cases hbs

/-- A packet of the layout decodes to the message it carries (R260). -/
theorem decode_packetBytes_of_carries (c : Config) (i : Instr) (h : Header) (m : Byte) (pl : List Byte)
    (hv : c.valid = true) (hi : Carries c i h m pl) : decode c (.packet (packetBytes c h m pl)) = .ok i := by
  have hpacket := decodePacket_packetBytes c h m pl [] hv hi.fits hi.admitted
  rw [List.append_nil, hi.decoded] at hpacket
  rw [decode, hpacket]

/-- The packet of a well-formed host message decodes to it (R150, R260). -/
theorem decode_encode_packet (c : Config) (i : Instr) (bs : List Byte) (hv : c.valid = true)
    (hwf : i.wellFormed c = true) (hbs : encode c i = .packet bs) : decode c (.packet bs) = .ok i := by
  obtain ⟨h, m, pl, hi⟩ := exists_carries c i bs hv hwf hbs
  rw [← hbs, hi.encoded]
  exact decode_packetBytes_of_carries c i h m pl hv hi

end Sys2Proof
end

section
/-! PROOFS. A buffered encoding is parsed valid and executed (R256, R260, R400), and the spec's own words decode. -/

namespace Sys2Proof.Machine

/-- The eleven header bytes of a packet (R150). -/
def headerBytes (c : Config) (h : Header) (m : Byte) (p : Nat) : List Byte :=
  bytesLe32 (u32 (p + c.overhead)) ++ bytesLe32 h.sequence ++ [h.fromId, h.toId, m]

theorem packetBody_eq (c : Config) (h : Header) (m : Byte) (pl : List Byte) :
    packetBody c h m pl = [c.startMarker] ++ headerBytes c h m pl.length ++ pl := by
  simp [packetBody, headerBytes]

/-- The fields of a header are read back at their offsets (R244). -/
theorem headerBytes_fields (c : Config) (h : Header) (m : Byte) (p : Nat) :
    wordAt (headerBytes c h m p) 0 = u32 (p + c.overhead) ∧ wordAt (headerBytes c h m p) 4 = h.sequence
      ∧ (headerBytes c h m p).getD 8 0 = h.fromId ∧ (headerBytes c h m p).getD 9 0 = h.toId
      ∧ (headerBytes c h m p).getD 10 0 = m :=
  ⟨le32_byteAt _, le32_byteAt _, rfl, rfl, rfl⟩

/-- A packet built by the layout of R150 stands whole at the head of RB.RX. -/
theorem buffered_packetBytes (s : State) (h : Header) (m : Byte) (pl rest : List Byte) (hv : s.cfg.valid = true)
    (hs : s.pstate = .awaitStart) (hfits : pl.length ≤ s.cfg.maxPayload) (hsize : sizeOk s.cfg m pl.length = true)
    (hc : Ring.content s.cfg.rxCap s.rx = packetBytes s.cfg h m pl ++ rest) :
    Buffered s (headerBytes s.cfg h m pl.length) pl
      (bytesLe32 (crc32 (packetBody s.cfg h m pl)) ++ endMarkerBytes s.cfg) rest := by
  obtain ⟨hoverhead, hmax, -⟩ := s.cfg.valid_packetSizes hv
  obtain ⟨hlength, -, -, -, hmsg⟩ := headerBytes_fields s.cfg h m pl.length
  rw [Config.maxPayload] at hfits
  have hpacket : pl.length + s.cfg.overhead ≤ s.cfg.maxPacketSize := by omega
  exact
    { atStart := hs
      headerLength := rfl
      footerLength := length_footer s.cfg _
      declared := by rw [hlength]; exact toNat_u32 _ (by omega)
      fits := hpacket
      admitted := by rw [hmsg]; exact hsize
      bytes := by rw [hc, packetBytes, packetBody_eq]; simp only [List.append_assoc] }

/-- The footer that the layout of R150 gives a body passes both checks (R252). -/
theorem footer_ok (c : Config) (v : U32) :
    wordAt (bytesLe32 v ++ endMarkerBytes c) 0 = v
      ∧ (c.hasEndMarker = false ∨ (bytesLe32 v ++ endMarkerBytes c).getD 4 0 = c.endMarker) := by
  refine ⟨wordAt_bytesLe32 v _, ?_⟩
  cases hend : c.hasEndMarker with
  | false => exact .inl rfl
  | true => exact .inr (by simp [endMarkerBytes, hend, bytesLe32])

/-- A state that differs from `s` in parser elements only may name its own values of them. -/
theorem parserFields_self {s t : State} {r : Ring} {p : PState} {crc n : U32} {pb : Memory} {info : PacketInfo}
    {k : Counters}
    (h : t = { s with rx := r, pstate := p, crc := crc, payloadRead := n, pb := pb, info := info, counters := k }) :
    t = { s with
      rx := t.rx, pstate := p, crc := t.crc, payloadRead := t.payloadRead, pb := t.pb, info := t.info,
      counters := k } := by
  subst h
  rfl

/-- Settles O42: the encoding is a buffered packet, `BufferedPacketVerdict` gives the state that the payload steps leave,
and the descriptor and PB in it decode to the instruction. -/
theorem bufferedMessageExecuted : Obligations.BufferedMessageExecuted := by
  intro s i bs rest h hs hwf hbs hc
  obtain ⟨hd, m, pl, hcarries⟩ := exists_carries s.cfg i bs h.valid hwf hbs
  obtain rfl := Wire.packet.inj (hbs.symm.trans hcarries.encoded)
  have hp := buffered_packetBytes s hd m pl rest h.valid hs hcarries.fits hcarries.admitted hc
  obtain ⟨hcrc, hend⟩ := footer_ok s.cfg (crc32 (packetBody s.cfg hd m pl))
  obtain ⟨-, hsequence, hfrom, hto, hmsg⟩ := headerBytes_fields s.cfg hd m pl.length
  obtain ⟨t, hrun, hrest, hpb, -, hframe, hvalid, hcounters⟩ := bufferedPacketVerdict s _ pl _ rest h hp
  rw [← packetBody_eq] at hvalid hcounters
  rw [if_pos hcrc, if_pos hend] at hcounters
  have hsize : (u32 pl.length).toNat = pl.length := toNat_u32 _ (hp.length_lt h)
  have hcfg : t.cfg = s.cfg := by rw [hframe]
  have hheader : infoHeader t.info = hd := by
    rw [congrArg State.info hframe]
    simp only [infoHeader, hsequence, hfrom, hto]
  have hid : t.info.msgId = m := by
    rw [congrArg State.info hframe]
    exact hmsg
  have hpayload : payloadBytes t = pl := by
    rw [payloadBytes, congrArg State.info hframe, hsize]
    exact hpb
  have hfetch : fetchMessage t = .ok i := by
    rw [fetchMessage, hcfg, hheader, hid, hpayload]
    exact hcarries.decoded
  obtain ⟨u, hu⟩ := exec_answers i t
  have hcomplete : t.pstate = .packetComplete := by rw [hframe]
  have hdispatch := parseStep_dispatches t u i hcomplete (hvalid.2 ⟨hcrc, hend⟩) hfetch hu
  refine ⟨t, u, hfetch, hu, ?_, hrest, ?_⟩
  · rw [length_packetBytes, Nat.add_sub_cancel, show 3 = 2 + 1 from rfl, Nat.add_right_comm,
      parseRun_add _ 1 s t hrun]
    exact parseRun_one t _ hdispatch
  · rw [hcounters] at hframe
    exact parserFields_self hframe

theorem default_valid : Config.default.valid = true := by decide +kernel

/-- Settles O29: the two packets are the encodings of the messages, CRC included, and a frame is decoded by its byte 0. -/
theorem specWordsDecode : Obligations.SpecWordsDecode := by
  refine ⟨?_, ?_, ?_, ?_⟩
  · exact decode_encode_packet _ _ _ default_valid (by decide) (by decide +kernel)
  · exact decode_encode_packet _ _ _ default_valid (by decide) (by decide +kernel)
  · decide
  · decide

end Sys2Proof.Machine
end

section
/-! PROOFS. The frames that `send_packet` builds, decoded again (R271, R277). -/

namespace Sys2Proof.Machine

/-- MAX_PACKET_SIZE of 45 leaves room for the 28 bytes of a FEEDBACK payload, the largest that is sent (R9, R151). -/
theorem feedback_fits_maxPayload (c : Config) (h : 45 ≤ c.maxPacketSize) : 28 ≤ c.maxPayload := by
  rw [Config.maxPayload]
  obtain ⟨-, -, hoverhead⟩ | ⟨-, -, hoverhead⟩ := c.overhead_cases <;> omega

/-- Settles O32: a built frame is the encoding of the message with the state's sequence number and NODE_ID, and the
decoder inverts the encoder. -/
theorem builtFramesDecode : Obligations.BuiltFramesDecode := by
  intro s dest m q fb hv hmax
  have hfeedback := feedback_fits_maxPayload s.cfg hmax
  have hanswer : 5 ≤ s.cfg.maxPayload := by omega
  refine ⟨?_, ?_, ?_⟩
  · exact decode_encode_packet s.cfg (.ack _ q m) _ hv (decide_eq_true hanswer) rfl
  · exact decode_encode_packet s.cfg (.nak _ q m) _ hv (decide_eq_true hanswer) rfl
  · exact decode_encode_packet s.cfg (.feedback _ fb) _ hv (decide_eq_true hfeedback) rfl

end Sys2Proof.Machine
end

section
/-! PROOFS. The feedback of an axis (R275, R382, R383): what it sends, and what it leaves unchanged. -/

namespace Sys2Proof.Machine

/-- `dirf` as the choice between the bit patterns of +1.0 and −1.0 (R353). -/
theorem dirf_eq_ite (d : Direction) : dirf d = if d = .plus then 0x3F800000 else 0xBF800000 := by
  cases d <;> rfl

/-- The flags byte is the union of one bit per flag (R165). -/
theorem Axis.flagsByte_eq_or (a : Axis) :
    a.flagsByte = (if a.armed then 1 else 0) ||| (if a.calibrated then 2 else 0)
      ||| (if a.doCalibration then 4 else 0) ||| (if a.sw then 8 else 0) := by
  unfold Axis.flagsByte
  generalize a.armed = armed, a.calibrated = calibrated, a.doCalibration = doCalibration, a.sw = sw
  revert armed calibrated doCalibration sw
  decide

/-- The state in the middle of the feedback of axis `i`: the snapshot is in `fb` and not yet sent (R382). -/
def snapshotTaken (i : Fin 6) (s : State) : State :=
  s.modifyAxis i fun a => { a with fb := a.snapshot (s.cfg.axisId.get i) (s.cfg.direction.get i) }

theorem snapshotTaken_fb (i : Fin 6) (s : State) :
    ((snapshotTaken i s).axis i).fb = (s.axis i).snapshot (s.cfg.axisId.get i) (s.cfg.direction.get i) :=
  congrArg Axis.fb (modifyAxis_axis_self ..)

/-- The three actions of `feedback(i)` in order, with the packet's payload named (R275, R382). -/
theorem feedbackAxis_eq (i : Fin 6) (s : State) :
    feedbackAxis i s = (sendPacket s.cfg.msg.feedback s.cfg.hostId
      (feedbackToBytes ((s.axis i).snapshot (s.cfg.axisId.get i) (s.cfg.direction.get i)))
      (snapshotTaken i s)).modifyAxis i fun a => { a with newTelemetry := false } := by
  rw [← snapshotTaken_fb]
  rfl

/-- The feedback of axis `i` sends the axis's snapshot to HOST_ID and changes nothing else but axis records (R382). -/
theorem feedbackAxis_sends (i : Fin 6) (s : State) (hv : s.cfg.valid = true)
    (hr : Ring.wf s.cfg.txCap s.tx = true) :
    Sent s (feedbackAxis i s) s.cfg.msg.feedback s.cfg.hostId
        (feedbackToBytes ((s.axis i).snapshot (s.cfg.axisId.get i) (s.cfg.direction.get i)))
      ∧ feedbackAxis i s = { withTransmit s (feedbackAxis i s) with axes := (feedbackAxis i s).axes } := by
  obtain ⟨u, hu, hsent, -⟩ := sendPacket_withTransmit s.cfg.msg.feedback s.cfg.hostId
    (feedbackToBytes ((s.axis i).snapshot (s.cfg.axisId.get i) (s.cfg.direction.get i))) (snapshotTaken i s) hv hr
  rw [feedbackAxis_eq, hu]
  exact ⟨Sent.of_transmit (s := s) hsent rfl rfl rfl, rfl⟩

/-- Settles O50: the fields of the snapshot written out, and the axis records one by one. -/
theorem feedbackSendsSnapshot : Obligations.FeedbackSendsSnapshot := by
  intro s i h
  simp only [← dirf_eq_ite, ← Axis.flagsByte_eq_or]
  obtain ⟨hsent, hframe⟩ := feedbackAxis_sends i s h.valid h.txRing
  refine ⟨hsent, hframe, ?_, fun j hj => ?_⟩
  · rw [feedbackAxis_axis, if_pos rfl]
    rfl
  · rw [feedbackAxis_axis, if_neg hj]

end Sys2Proof.Machine
end

section
/-! PROOFS. The motor codec (43_motor_codec.md): the request frames (R290-R292, R300-R315), and what the decoders give
back of an encoding (R324). -/

namespace Sys2Proof

/-- The request kinds without operands, each with its opcode (R291). -/
def plainRequests (c : Config) : List (Request × Byte) :=
  [(.resetConfig, c.op.resetConfig), (.refreshConfig, c.op.refreshConfig), (.startMotor, c.op.startMotor),
    (.stopMotor, c.op.stopMotor), (.stopCtrl, c.op.stopCtrl), (.getVersion, c.op.getVersion),
    (.getFault, c.op.getFault)]

/-- The control requests, each with its opcode (R290). -/
def controlRequests (c : Config) (v : F32) (d : U32) : List (Request × Byte) :=
  [(.torqueCtrl v d, c.op.torqueCtrl), (.speedCtrl v d, c.op.speedCtrl), (.positionCtrl v d, c.op.positionCtrl)]

/-- The request kinds with an argument, each with its opcode (R292). -/
def argumentRequests (c : Config) : List ((List Byte → Request) × Byte) :=
  [(.modifyConfig, c.op.modifyConfig), (.retrieveConfig, c.op.retrieveConfig), (.modifyParam, c.op.modifyParam),
    (.retrieveParam, c.op.retrieveParam), (.ackFault, c.op.ackFault), (.retrieveIndicator, c.op.retrieveIndicator)]

theorem encRequest_plain (c : Config) : ∀ k ∈ plainRequests c, encRequest c k.1 = some (encNone k.2) := by
  simp [plainRequests, encRequest]

theorem encRequest_control (c : Config) (v : F32) (d : U32) :
    ∀ k ∈ controlRequests c v d, encRequest c k.1 = some (encF32Dur k.2 v d) := by
  simp [controlRequests, encRequest]

theorem encRequest_argument (c : Config) (arg : List Byte) :
    ∀ k ∈ argumentRequests c, encRequest c (k.1 arg) = encRaw7 k.2 arg := by
  simp [argumentRequests, encRequest]

theorem encRaw7_of_length_ne (op : Byte) (arg : List Byte) (h : arg.length ≠ 7) : encRaw7 op arg = none := by
  unfold encRaw7
  split
  · exact absurd rfl h
  · rfl

/-- Settles O30: the frame of a kind is that of its encoder, and the encoder of an argument takes seven bytes. -/
theorem requestFramesAsSpecified : Obligations.RequestFramesAsSpecified := by
  intro c v d a0 a1 a2 a3 a4 a5 a6 arg
  refine ⟨encRequest_plain c, encRequest_control c v d, fun k hk => ⟨?_, fun hlen => ?_⟩⟩
  · exact encRequest_argument c _ k hk
  · exact (encRequest_argument c arg k hk).trans (encRaw7_of_length_ne k.2 arg hlen)

/-- The frame has no place for bits 31..24 of a duration; a duration below 2^24 comes back whole (R321). -/
theorem decF32Dur_encF32Dur (op : Byte) (v : F32) (d : U32) (h : d.toNat < 2 ^ 24) :
    decF32Dur op (encF32Dur op v d) = (true, v, d) := by
  have hdur : le24 (byteAt d 0) (byteAt d 1) (byteAt d 2) = d := by
    rw [le24_byteAt, Nat.mod_eq_of_lt h, BitVec.ofNat_toNat, BitVec.setWidth_eq]
  simp [decF32Dur, encF32Dur, hdur]

@[simp] theorem controlFields_encControl (op : Byte) (r : ControlReply) : controlFields (encControl op r) = r := by
  simp [controlFields, encControl]

theorem decControl_encControl (op : Byte) (r : ControlReply) : decControl op (encControl op r) = some r :=
  (if_pos rfl).trans (congrArg some (controlFields_encControl op r))

/-- The default ranges of position, velocity and current, each with the width of its code (R9). -/
def defaultRanges : List (F32 × F32 × Nat) :=
  [(0xC1480000, 0x41480000, 16), (0xC2820000, 0x42820000, 12), (0xC3610000, 0x43610000, 12)]

/-- The affine decode sends the first and the last code exactly to the ends of a default range (R317). -/
theorem u2f_range_ends : ∀ k ∈ defaultRanges,
    u2f 0 k.1 k.2.1 k.2.2 = k.1 ∧ u2f (2 ^ k.2.2 - 1) k.1 k.2.1 k.2.2 = k.2.1 := by decide +kernel

/-- The affine encode sends the ends of a default range to the first and the last code (R322). -/
theorem f2u_range_ends : ∀ k ∈ defaultRanges,
    f2u k.1 k.1 k.2.1 k.2.2 = 0 ∧ f2u k.2.1 k.1 k.2.1 k.2.2 = 2 ^ k.2.2 - 1 := by decide +kernel

theorem f2u_u2f_range_ends (k : F32 × F32 × Nat) (hk : k ∈ defaultRanges) :
    f2u (u2f 0 k.1 k.2.1 k.2.2) k.1 k.2.1 k.2.2 = 0
      ∧ f2u (u2f (2 ^ k.2.2 - 1) k.1 k.2.1 k.2.2) k.1 k.2.1 k.2.2 = 2 ^ k.2.2 - 1 := by
  obtain ⟨hlo, hhi⟩ := u2f_range_ends k hk
  rw [hlo, hhi]
  exact f2u_range_ends k hk

/-- For these interior codes the rounded quotient stands below the code, so truncation loses one (R324). -/
theorem f2u_u2f_interior : f2u (u2f 1 0xC1480000 0x41480000 16) 0xC1480000 0x41480000 16 = 0
    ∧ f2u (u2f 1 0xC2820000 0x42820000 12) 0xC2820000 0x42820000 12 = 0
    ∧ f2u (u2f 3 0xC3610000 0x43610000 12) 0xC3610000 0x43610000 12 = 2 := by decide +kernel

/-- Settles O31: the frames' fields are read back by the laws of byte order, the codes by evaluation. -/
theorem motorCodecRoundTrips : Obligations.MotorCodecRoundTrips :=
  ⟨decF32Dur_encF32Dur, decControl_encControl, f2u_u2f_range_ends, f2u_u2f_interior⟩

end Sys2Proof
end

section
/-! PROOFS. CAN_RX on a frame of one of the sixteen kinds (R121, R375, R376): which instruction the event runs, and what
a successful reply does to its axis. -/

namespace Sys2Proof.Machine

open Sys2Proof.Laws

/-- A frame that decodes is executed as the instruction it decodes to (R375). -/
theorem canRx_decoded (id : CanId) (f : Frame) (s : State) (i : Instr) (h : decodeFrame s.cfg id f = .ok i) :
    canRx id f s = exec i s := by
  rw [canRx, h]

/-- Settles O23: the event is CAN_RX, and no instruction faults. -/
theorem stepRunsReceivedReply : Obligations.StepRunsReceivedReply := by
  intro s i id f later hv hp hdecode
  obtain ⟨t, ht⟩ := exec_answers i { s with pending := later }
  have hstep : step s = exec i { s with pending := later } :=
    (step_canRx s id f later hv hp).trans (canRx_decoded id f { s with pending := later } i hdecode)
  exact ⟨t, ht, hstep.trans ht⟩

/-- A successful reply under an axis's CAN_ID: the raw record, then the action of its kind, on that axis (R375). -/
theorem handleReply_success (data : Frame) (act : Axis → Axis) (s : State) (i : Fin 6) (hv : s.cfg.valid = true)
    (hr : data.b1 = s.cfg.resultSuccess) :
    handleReply (s.cfg.canId.get i) data act s = s.modifyAxis i fun a => act (a.recordReply s.tickCount data) := by
  have hi := axisOfCanId_canId s.cfg i hv
  obtain ⟨hnone, -⟩ | ⟨j, hj, ⟨-, h⟩ | ⟨hfailed, -⟩⟩ := handleReply_cases (s.cfg.canId.get i) data act s
  · rw [hi] at hnone; cases hnone
  · rw [hi] at hj; cases hj; exact h
  · exact absurd hr hfailed

/-- Of two updates of one axis with nothing between, the state keeps the composition. -/
theorem modifyAxis_modifyAxis (s : State) (i : Fin 6) (f g : Axis → Axis) :
    (s.modifyAxis i f).modifyAxis i g = s.modifyAxis i fun a => g (f a) := by
  simp only [State.modifyAxis, Six.get_set_self, Six.set_set]

/-- The eleven kinds whose successful reply is kept raw (R376). -/
def rawKinds (id : CanId) (r : RawReply) : List Instr :=
  [.opResetConfig id r, .opRefreshConfig id r, .opModifyConfig id r, .opRetrieveConfig id r, .opStopCtrl id r,
    .opModifyParam id r, .opRetrieveParam id r, .opGetVersion id r, .opGetFault id r, .opAckFault id r,
    .opRetrieveIndicator id r]

/-- The three kinds whose successful reply carries telemetry (R376). -/
def controlKinds (id : CanId) (r : ControlReply) : List Instr :=
  [.opTorqueCtrl id r, .opSpeedCtrl id r, .opPositionCtrl id r]

theorem exec_rawKind (s : State) (id : CanId) (r : RawReply) :
    ∀ k ∈ rawKinds id r,
      exec k s = .next (handleReply id (encRawReply (rowSelector s.cfg k) r) (fun a => a) s) := by
  simp only [rawKinds, List.forall_mem_cons]
  exact ⟨rfl, rfl, rfl, rfl, rfl, rfl, rfl, rfl, rfl, rfl, rfl, nofun⟩

theorem exec_controlKind (s : State) (id : CanId) (r : ControlReply) :
    ∀ k ∈ controlKinds id r,
      exec k s = .next (handleReply id (encControl (rowSelector s.cfg k) r) (Axis.telemetry s.cfg r) s) := by
  simp only [controlKinds, List.forall_mem_cons]
  exact ⟨rfl, rfl, rfl, nofun⟩

/-- A successful control reply executed (R375, R376). -/
theorem exec_controlKind_success (s : State) (r : ControlReply) (i : Fin 6) (hv : s.cfg.valid = true)
    (hr : r.result = s.cfg.resultSuccess) (k : Instr) (hk : k ∈ controlKinds (s.cfg.canId.get i) r) :
    exec k s = .next (s.modifyAxis i fun a =>
      (a.recordReply s.tickCount (encControl (rowSelector s.cfg k) r)).telemetry s.cfg r) := by
  rw [exec_controlKind s _ r k hk, handleReply_success _ _ s i hv hr]

/-- Settles O14: the action of the eleven kinds is none, so the raw record alone is left. -/
theorem rawRepliesOnlyRecorded : Obligations.RawRepliesOnlyRecorded := by
  rintro s _ r i hv rfl hr k hk
  obtain ⟨m, hm, rfl⟩ : ∃ m ∈ rawKinds (s.cfg.canId.get i) r, (m, rowSelector s.cfg m) = k := List.mem_map.1 hk
  rw [exec_rawKind s _ r m hm, handleReply_success _ _ s i hv hr]
  exact ⟨_, rfl, modifyAxis_onlyAxisChanged s i _⟩

/-- Settles O17: the action of the three kinds is `Axis.telemetry`, which decodes the codes (R317-R319). -/
theorem controlRepliesStoreTelemetry : Obligations.ControlRepliesStoreTelemetry := by
  rintro s _ r i hv rfl hr k hk
  obtain ⟨m, hm, rfl⟩ : ∃ m ∈ controlKinds (s.cfg.canId.get i) r, (m, rowSelector s.cfg m) = k := List.mem_map.1 hk
  exact ⟨_, exec_controlKind_success s r i hv hr m hm, modifyAxis_onlyAxisChanged s i _⟩

/-- Settles O21: every field the first reply writes the second writes again, at the same tick. -/
theorem laterReplyReplacesEarlier : Obligations.LaterReplyReplacesEarlier := by
  rintro s _ r q i hv rfl hr hq k hk l hl
  refine ⟨_, _, exec_controlKind_success s r i hv hr k hk, ?_, exec_controlKind_success s q i hv hq l hl⟩
  refine (exec_controlKind_success (s.modifyAxis i _) q i hv hq l hl).trans ?_
  rw [modifyAxis_modifyAxis]
  rfl

/-- Settles O16: the action of a stop is `Axis.disarm`. -/
theorem stopReplyDisarmsAxis : Obligations.StopReplyDisarmsAxis := by
  rintro s _ r i hv rfl hr
  have hexec : exec (.opStopMotor (s.cfg.canId.get i) r) s
      = .next (s.modifyAxis i fun a => (a.recordReply s.tickCount (encRawReply s.cfg.op.stopMotor r)).disarm) :=
    congrArg Host.Outcome.next (handleReply_success _ _ s i hv hr)
  exact ⟨_, hexec, modifyAxis_onlyAxisChanged s i _⟩

/-- A queue within its depth takes the frame while it is shorter, and counts the drop otherwise (R48, R377). -/
theorem Axis.txqPush_eq (c : Config) (f : Frame) (a : Axis) (h : a.txq.length ≤ c.canTxqDepth) :
    a.txqPush c f = { a with
      txq := if a.txq.length < c.canTxqDepth then a.txq ++ [f] else a.txq
      canTxDropCount := if a.txq.length < c.canTxqDepth then a.canTxDropCount else a.canTxDropCount + 1 } := by
  obtain ⟨hfull, e⟩ | ⟨hroom, e⟩ := a.txqPush_cases c f
  · rw [e, if_neg (Nat.not_lt.2 hfull.ge), if_neg (Nat.not_lt.2 hfull.ge)]
  · have hlt := Nat.lt_of_le_of_ne h hroom
    rw [e, if_pos hlt, if_pos hlt]

/-- Settles O15: the action of a start arms the axis and pushes the zero-velocity frame; the invariant bounds the
queue. -/
theorem startReplyArmsAxis : Obligations.StartReplyArmsAxis := by
  rintro s _ r i h rfl hr
  have hexec : exec (.opStartMotor (s.cfg.canId.get i) r) s
      = .next (s.modifyAxis i fun a =>
          (a.recordReply s.tickCount (encRawReply s.cfg.op.startMotor r)).start s.cfg) :=
    congrArg Host.Outcome.next (handleReply_success _ _ s i h.valid hr)
  obtain ⟨-, -, -, hq⟩ := (Axis.wf_iff _ _).1 (h.axes i)
  have hstart := Axis.txqPush_eq s.cfg (encF32Dur s.cfg.op.speedCtrl F32.posZero s.cfg.pdDuration)
    { (s.axis i).recordReply s.tickCount (encRawReply s.cfg.op.startMotor r) with armed := true } hq
  obtain ⟨hframe, haxis, hother⟩ := modifyAxis_onlyAxisChanged s i fun a =>
    (a.recordReply s.tickCount (encRawReply s.cfg.op.startMotor r)).start s.cfg
  exact ⟨_, hexec, hframe, haxis.trans hstart, hother⟩

end Sys2Proof.Machine
end

section
/-! PROOFS. The order of binary32 values under a change of sign (R13), and the two clamps (R366, R369). -/

namespace Sys2Proof.F32

theorem isNegative_eq_msb (x : F32) : isNegative x = x.msb := (BitVec.msb_eq_decide x).symm

/-- `fneg` changes the sign bit and leaves the others (R13). -/
@[simp] theorem isNegative_neg (x : F32) : isNegative (neg x) = !isNegative x := by
  rw [isNegative_eq_msb, isNegative_eq_msb, neg, BitVec.msb_xor]
  exact Bool.xor_true _

@[simp] theorem magnitude_neg (x : F32) : magnitude (neg x) = magnitude x := by
  simp only [magnitude, neg, BitVec.toNat_xor, Nat.xor_mod_two_pow]
  exact Nat.xor_zero _

@[simp] theorem isNaN_neg (x : F32) : isNaN (neg x) = isNaN x := by
  rw [isNaN, isNaN, magnitude_neg]

@[simp] theorem orderKey_neg (x : F32) : orderKey (neg x) = -orderKey x := by
  rw [orderKey, orderKey, isNegative_neg, magnitude_neg]
  cases isNegative x
  · rfl
  · exact (Int.neg_neg _).symm

theorem le_iff (a b : F32) : le a b = true ↔ isNaN a = false ∧ isNaN b = false ∧ orderKey a ≤ orderKey b := by
  simp [le, and_assoc]

theorem lt_iff (a b : F32) : lt a b = true ↔ isNaN a = false ∧ isNaN b = false ∧ orderKey a < orderKey b := by
  simp [lt, and_assoc]

/-- A limit that is not negative is a number, with a key that is not negative. -/
theorem posZero_le_iff (x : F32) : le posZero x = true ↔ isNaN x = false ∧ 0 ≤ orderKey x := by
  rw [le_iff]
  exact ⟨fun ⟨_, hn, hk⟩ => ⟨hn, hk⟩, fun ⟨hn, hk⟩ => ⟨rfl, hn, hk⟩⟩

theorem le_of_lt {a b : F32} (h : lt a b = true) : le a b = true := by
  obtain ⟨ha, hb, hk⟩ := (lt_iff a b).1 h
  exact (le_iff a b).2 ⟨ha, hb, hk.le⟩

theorem le_of_not_lt {a b : F32} (ha : isNaN a = false) (hb : isNaN b = false) (h : ¬ lt a b = true) :
    le b a = true :=
  (le_iff b a).2 ⟨hb, ha, not_lt.1 fun hk => h ((lt_iff a b).2 ⟨ha, hb, hk⟩)⟩

theorem le_refl {a : F32} (h : isNaN a = false) : le a a = true := (le_iff a a).2 ⟨h, h, Int.le_refl _⟩

/-- A limit that is not negative is no less than its opposite. -/
theorem neg_le_self {x : F32} (h : le posZero x = true) : le (neg x) x = true := by
  obtain ⟨hn, hk⟩ := (posZero_le_iff x).1 h
  rw [le_iff, isNaN_neg, orderKey_neg]
  exact ⟨hn, hn, by omega⟩

theorem neg_le_posZero {x : F32} (h : le posZero x = true) : le (neg x) posZero = true := by
  obtain ⟨hn, hk⟩ := (posZero_le_iff x).1 h
  rw [le_iff, isNaN_neg, orderKey_neg]
  exact ⟨hn, rfl, Int.neg_nonpos_of_nonneg hk⟩

end Sys2Proof.F32

namespace Sys2Proof.Machine

/-- `x` lies between the opposite of a limit and the limit, in the IEEE order. -/
def Within (limit x : F32) : Prop := F32.le (F32.neg limit) x = true ∧ F32.le x limit = true

section Clamps

variable {limit : F32} (h : F32.le F32.posZero limit = true)

include h

theorem Within.upper : Within limit limit :=
  ⟨F32.neg_le_self h, F32.le_refl ((F32.posZero_le_iff limit).1 h).1⟩

theorem Within.lower : Within limit (F32.neg limit) :=
  ⟨F32.le_refl ((F32.isNaN_neg limit).trans ((F32.posZero_le_iff limit).1 h).1), F32.neg_le_self h⟩

/-- A number that is past neither end lies between them. -/
theorem Within.of_not_lt {x : F32} (hx : F32.isNaN x = false) (hlo : ¬ F32.lt x (F32.neg limit) = true)
    (hhi : ¬ F32.lt limit x = true) : Within limit x := by
  obtain ⟨hn, -⟩ := (F32.posZero_le_iff limit).1 h
  exact ⟨F32.le_of_not_lt hx ((F32.isNaN_neg limit).trans hn) hlo, F32.le_of_not_lt hn hx hhi⟩

/-- The velocity clamp lands between its ends, with 0.0 in place of a NaN (R366). -/
theorem clampVelocity_within (v : F32) : Within limit (clampVelocity limit v) := by
  unfold clampVelocity
  split_ifs with hnan hhi hlo
  · exact ⟨F32.neg_le_posZero h, h⟩
  · exact Within.upper h
  · exact Within.lower h
  · exact Within.of_not_lt h (Bool.eq_false_iff.2 hnan) hlo hhi

end Clamps

/-- The angle clamp lands between its ends, for every number (R369). -/
theorem clampAngle_within (c : Config) (b : F32) (h : F32.le F32.posZero c.angleLimit = true)
    (hb : F32.isNaN b = false) : Within c.angleLimit (clampAngle c b) := by
  unfold clampAngle
  split_ifs with hlo hhi
  · exact Within.lower h
  · exact Within.upper h
  · exact Within.of_not_lt h hb hlo hhi

theorem angleLimit_pos (c : Config) (hv : c.valid = true) : F32.lt F32.posZero c.angleLimit = true := by
  obtain ⟨-, -, -, -, -, -, -, -, -, -, -, -, -, -, hangle, -⟩ := (Config.valid_iff c).1 hv
  exact hangle

/-- Settles O49: both clamps choose between the two ends and a value past neither. -/
theorem clampsStayInRange : Obligations.ClampsStayInRange :=
  ⟨fun _ v h => clampVelocity_within h v,
    fun c b hv hb => clampAngle_within c b (F32.le_of_lt (angleLimit_pos c hv)) hb⟩

end Sys2Proof.Machine
end

section
/-! PROOFS. What a TICK does to one axis record, part by part: the debounce (R352), the calibration step (R353-R361) and
the PD step (R365-R367). -/

namespace Sys2Proof.Machine

/-! The debounce. -/

/-- A sample that agrees with the switch clears the count (R352). -/
theorem Axis.debounce_agrees (c : Config) (a : Axis) : a.debounce c a.sw = { a with debCount := 0 } :=
  if_pos rfl

/-- A sample that disagrees is counted, or is the one that the switch follows (R352). -/
theorem Axis.debounce_disagrees (c : Config) (a : Axis) :
    a.debounce c (!a.sw) = if c.debounceN ≤ (a.debCount + 1).toNat then { a with sw := !a.sw, debCount := 0 }
      else { a with debCount := a.debCount + 1 } :=
  if_neg (Bool.not_ne_self a.sw)

theorem ofNat_debCount_succ (n : Nat) : (BitVec.ofNat 8 n + 1 : Byte) = BitVec.ofNat 8 (n + 1) :=
  (BitVec.ofNat_add n 1).symm

theorem toNat_debCount (n : Nat) (h : n < 2 ^ 8) : (BitVec.ofNat 8 n).toNat = n := by
  rw [BitVec.toNat_ofNat, Nat.mod_eq_of_lt h]

/-- Below DEBOUNCE_N samples that disagree are only counted (R352). -/
theorem Axis.debounce_iterate (c : Config) (a : Axis) (n : Nat) (hN : c.debounceN < 2 ^ 8) (ha : a.debCount = 0)
    (hn : n < c.debounceN) : (Axis.debounce c (!a.sw))^[n] a = { a with debCount := BitVec.ofNat 8 n } := by
  induction n with
  | zero => rw [Function.iterate_zero, id, ← show a.debCount = BitVec.ofNat 8 0 from ha]
  | succ n ih =>
    rw [Function.iterate_succ_apply', ih (Nat.lt_of_succ_lt hn)]
    refine (Axis.debounce_disagrees c { a with debCount := BitVec.ofNat 8 n }).trans ?_
    simp only [ofNat_debCount_succ, toNat_debCount (n + 1) (hn.trans hN), if_neg hn.not_ge]

/-- Settles O43: the samples before the last are counted, and the last completes DEBOUNCE_N. -/
theorem debounceFollowsAfterN : Obligations.DebounceFollowsAfterN := by
  intro c a n hv hN ha hn
  refine ⟨?_, fun b => b.debounce_agrees c⟩
  obtain hlt | rfl := Nat.lt_or_eq_of_le hn
  · rw [if_pos hlt, Axis.debounce_iterate c a n hN ha hlt]
  · obtain ⟨m, hm⟩ : ∃ m, c.debounceN = m + 1 := Nat.exists_eq_add_one.2 (c.valid_counts hv).2.2.1
    rw [if_neg (Nat.lt_irrefl _), hm, Function.iterate_succ_apply', Axis.debounce_iterate c a m hN ha (by omega)]
    refine (Axis.debounce_disagrees c { a with debCount := BitVec.ofNat 8 m }).trans ?_
    simp only [ofNat_debCount_succ, toNat_debCount (m + 1) (hm ▸ hN), hm, if_pos (Nat.le_refl (m + 1))]

/-! The calibration step. -/

theorem Axis.calibrating_iff (a : Axis) : a.calibrating = true ↔ a.doCalibration = true ∧ a.calibrated = false := by
  simp [Axis.calibrating]

/-- Behind the closed gate nothing happens (R353). -/
theorem Axis.calibrate_closed (c : Config) (d : Direction) (a : Axis) (h : ¬ a.calibrating = true) :
    a.calibrate c d = some a := if_neg h

/-- Behind the open gate the stage does its work (R353). -/
theorem Axis.calibrate_open (c : Config) (d : Direction) (a : Axis) (h : a.calibrating = true) :
    a.calibrate c d = a.calStage c d := if_pos h

section StageWork

variable {a : Axis} (c : Config) (d : Direction)

theorem Axis.calStage_255 (h : a.stage = 255) : a.calStage c d = some a.calSnap := by simp [Axis.calStage, h]
theorem Axis.calStage_0 (h : a.stage = 0) : a.calStage c d = some (a.calSeek c d) := by simp [Axis.calStage, h]
theorem Axis.calStage_1 (h : a.stage = 1) : a.calStage c d = some (a.calDwell c) := by simp [Axis.calStage, h]
theorem Axis.calStage_2 (h : a.stage = 2) : a.calStage c d = some (a.calBackOff c d) := by simp [Axis.calStage, h]
theorem Axis.calStage_3 (h : a.stage = 3) : a.calStage c d = some (a.calSeekOpposite c d) := by simp [Axis.calStage, h]
theorem Axis.calStage_4 (h : a.stage = 4) : a.calStage c d = some (a.calBackOffOpposite c d) := by
  simp [Axis.calStage, h]
theorem Axis.calStage_5 (h : a.stage = 5) : a.calStage c d = some (a.calConverge c) := by simp [Axis.calStage, h]
theorem Axis.calStage_6 (h : a.stage = 6) : a.calStage c d = some a.calFinish := by simp [Axis.calStage, h]

/-- The dwell counts, and goes on to stage 2 once DWELL_TICKS are counted (R356). -/
theorem Axis.calDwell_eq (h : a.stage = 1) :
    a.calDwell c = { a with
      dwell := a.dwell + 1
      stage := if c.dwellTicks ≤ (a.dwell + 1).toNat then 2 else 1 } := by
  simp only [Axis.calDwell]
  split_ifs
  · rfl
  · rw [← h]

end StageWork

/-- Settles O44: the gate, then one equation per stage. -/
theorem calibrationStepByStage : Obligations.CalibrationStepByStage := by
  intro c d a
  simp only [← dirf_eq_ite]
  constructor
  · intro hclosed
    refine a.calibrate_closed c d fun h => ?_
    obtain ⟨hdo, hcal⟩ := a.calibrating_iff.1 h
    simp [hdo, hcal] at hclosed
  · intro hopen
    rw [a.calibrate_open c d (a.calibrating_iff.2 hopen)]
    refine ⟨fun h => ?_, fun h => ?_, fun h => ?_, fun h => ?_, fun h => ?_, fun h => ?_, fun h => ?_, fun h => ?_⟩
    · exact Axis.calStage_255 c d h
    · exact Axis.calStage_0 c d h
    · exact (Axis.calStage_1 c d h).trans (congrArg some (Axis.calDwell_eq c h))
    · exact Axis.calStage_2 c d h
    · exact Axis.calStage_3 c d h
    · exact Axis.calStage_4 c d h
    · exact Axis.calStage_5 c d h
    · exact Axis.calStage_6 c d h

/-- A calibration step in stage 1 counts one tick of the dwell (R353, R356). -/
theorem Axis.calibrate_dwell (c : Config) (d : Direction) (a : Axis) (hdo : a.doCalibration = true)
    (hcal : a.calibrated = false) (hstage : a.stage = 1) :
    a.calibrate c d = some { a with
      dwell := a.dwell + 1
      stage := if c.dwellTicks ≤ (a.dwell + 1).toNat then 2 else 1 } := by
  rw [a.calibrate_open c d (a.calibrating_iff.2 ⟨hdo, hcal⟩), Axis.calStage_1 c d hstage, Axis.calDwell_eq c hstage]

theorem u32_succ (n : Nat) : u32 n + 1 = u32 (n + 1) := (BitVec.ofNat_add n 1).symm

/-- Settles O45: one more calibration step after a shorter run counts one more, and reaches DWELL_TICKS only as the
last. -/
theorem dwellLastsDwellTicks : Obligations.DwellLastsDwellTicks := by
  intro c d a levels hv hmax hdo hcal hstage hdwell hlen
  induction levels using List.reverseRecOn with
  | nil =>
    have hpos : 0 ≠ c.dwellTicks := (Nat.ne_of_gt (c.valid_counts hv).2.1).symm
    simp only [List.length_nil, if_neg hpos, ← hstage, ← show a.dwell = u32 0 from hdwell]
    rfl
  | append_singleton levels level ih =>
    rw [List.length_append, List.length_singleton] at hlen ⊢
    have hcount : (u32 (levels.length + 1)).toNat = levels.length + 1 := toNat_u32 _ (hlen.trans_lt hmax)
    have hlast : c.dwellTicks ≤ levels.length + 1 ↔ levels.length + 1 = c.dwellTicks := by omega
    rw [List.foldlM_append, ih (Nat.le_of_succ_le hlen), if_neg (Nat.ne_of_lt hlen)]
    refine (bind_pure _).trans ((Axis.calibrate_dwell c d
      { a with sw := level, dwell := u32 levels.length, stage := 1 } hdo hcal rfl).trans ?_)
    simp only [u32_succ, hcount, hlast, List.getLast?_concat, Option.getD_some]

/-! The PD step. -/

theorem Axis.pdIssue_of_armed (c : Config) (a : Axis) (h : a.armed = true) :
    a.pdIssue c = a.txqPush c (encF32Dur c.op.speedCtrl (clampVelocity a.vLim a.pdLaw) c.pdDuration) := if_pos h

theorem Axis.pdIssue_of_not_armed (c : Config) (a : Axis) (h : a.armed = false) : a.pdIssue c = a :=
  if_neg (Bool.eq_false_iff.1 h)

/-- Settles O48: `f` is the frame that an armed axis pushes, with the law and the clamp written out. -/
theorem pdCommandQueued : Obligations.PdCommandQueued := by
  intro c a w v f
  cases harmed : a.armed with
  | false => exact a.pdIssue_of_not_armed c harmed
  | true =>
    have hpush : a.pdIssue c = a.txqPush c f := a.pdIssue_of_armed c harmed
    rw [if_neg Bool.noConfusion, ← harmed, hpush]
    obtain ⟨hfull, e⟩ | ⟨hroom, e⟩ := a.txqPush_cases c f
    · exact e.trans (if_pos hfull).symm
    · exact e.trans (if_neg hroom).symm

end Sys2Proof.Machine
end

section
/-! PROOFS. CAN_DRAIN (R121, R378): what it takes from each queue, and the frames that leave. -/

namespace Sys2Proof.Machine

/-- The order visits every axis, and none twice (R378, R380). -/
theorem mem_axisOrder (i : Fin 6) : i ∈ axisOrder := by revert i; decide

theorem axisOrder_nodup : axisOrder.Nodup := by decide

/-- The record of an axis after CAN_DRAIN: its oldest frame, where it has one, is sent and recorded (R378). -/
def Axis.drained (now : U32) (a : Axis) : Axis :=
  match a.txq with
  | [] => a
  | f :: rest => a.sent now f rest

/-- The frame that leaves for axis `i` in CAN_DRAIN, where its queue holds one (R378). -/
def oldestFrame (s : State) (i : Fin 6) : Option (CanId × Frame) :=
  (s.axis i).txq.head?.map fun f => (s.cfg.canId.get i, f)

/-- Axis `i`'s part of CAN_DRAIN, with or without a frame (R378). -/
theorem drainAxis_eq (s : State) (i : Fin 6) :
    drainAxis s i = { s.modifyAxis i (Axis.drained s.tickCount) with
      canOut := s.canOut ++ (oldestFrame s i).toList } := by
  cases hq : (s.axis i).txq with
  | nil =>
    have hself : s.axes.set i (Axis.drained s.tickCount (s.axes.get i)) = s.axes := by
      rw [Axis.drained, show (s.axes.get i).txq = [] from hq]; exact Six.set_get_self ..
    simp only [drainAxis, oldestFrame, hq, State.modifyAxis, hself, List.head?_nil, Option.map_none,
      Option.toList_none, List.append_nil]
  | cons f rest =>
    have hself : Axis.drained s.tickCount (s.axes.get i) = (s.axes.get i).sent s.tickCount f rest := by
      rw [Axis.drained, show (s.axes.get i).txq = f :: rest from hq]
    simp only [drainAxis, oldestFrame, hq, State.modifyAxis, hself, List.head?_cons, Option.map_some,
      Option.toList_some]

theorem drainAxis_axis (s : State) (i j : Fin 6) :
    (drainAxis s i).axis j = if j = i then (s.axis j).drained s.tickCount else s.axis j := by
  rw [drainAxis_eq]; exact modifyAxis_axis s i j _

theorem drainAxis_tickCount (s : State) (i : Fin 6) : (drainAxis s i).tickCount = s.tickCount := by
  rw [drainAxis_eq]; rfl

/-- The axes' parts of CAN_DRAIN, one after the other: each listed axis is drained once, and the frames leave in the
order of the list (R378). -/
theorem foldl_drainAxis (is : List (Fin 6)) (hn : is.Nodup) (s : State) :
    is.foldl drainAxis s = { s with
        canOut := s.canOut ++ is.filterMap (oldestFrame s)
        axes := (is.foldl drainAxis s).axes }
      ∧ ∀ j, (is.foldl drainAxis s).axis j = if j ∈ is then (s.axis j).drained s.tickCount else s.axis j := by
  induction is generalizing s with
  | nil => simp
  | cons i rest ih =>
    obtain ⟨hi, hrest⟩ := List.nodup_cons.1 hn
    obtain ⟨hframe, haxis⟩ := ih hrest (drainAxis s i)
    have hother (j : Fin 6) (hj : j ≠ i) : (drainAxis s i).axis j = s.axis j := by
      rw [drainAxis_axis, if_neg hj]
    have hout : rest.filterMap (oldestFrame (drainAxis s i)) = rest.filterMap (oldestFrame s) := by
      refine List.filterMap_congr fun j hj => ?_
      rw [oldestFrame, hother j fun e => hi (e ▸ hj), drainAxis_eq]
      rfl
    refine ⟨?_, fun j => ?_⟩
    · rw [List.foldl_cons, hframe, hout, drainAxis_eq]
      cases hq : oldestFrame s i with
      | none => simp [hq]
      | some f => simp [hq]
    · rw [List.foldl_cons, haxis]
      by_cases hj : j = i
      · subst hj
        rw [if_neg hi, if_pos List.mem_cons_self, drainAxis_axis, if_pos rfl]
      · simp only [hother j hj, drainAxis_tickCount, List.mem_cons, hj, false_or]

/-- The CAN_DRAIN turn of the main loop (R121, R378). -/
theorem mainLoopStep_canDrain (s : State) (hs : s.slot = .canDrain) :
    mainLoopStep s = .next { canDrain s with slot := .rxPoll } := by
  rw [mainLoopStep, hs]

/-- Settles O36: CAN_DRAIN visits each of the six axes once. -/
theorem canDrainSendsOnePerAxis : Obligations.CanDrainSendsOnePerAxis := by
  intro s later hv hp hslot
  obtain ⟨hframe, haxis⟩ := foldl_drainAxis axisOrder axisOrder_nodup { s with pending := later }
  refine ⟨{ canDrain { s with pending := later } with slot := .rxPoll }, ?_, ?_, ?_, fun i => ?_⟩
  · rw [step_mainLoop s later hv hp]
    exact mainLoopStep_canDrain { s with pending := later } hslot
  · rw [canDrain, hframe]
  · rw [canDrain, hframe]
    rfl
  · exact (haxis i).trans (if_pos (mem_axisOrder i))

end Sys2Proof.Machine
end

section
/-! PROOFS. A TICK that goes through (R362, R380, R381): which calibration steps answer, what playback leaves, and that
from the invariant no step faults or is refused. -/

namespace Sys2Proof.Machine

/-! The calibration step answers behind a closed gate and in the eight listed stages (R44, R362). -/

theorem legalStage_iff (stage : Byte) :
    legalStage stage = true ↔ stage = 255 ∨ stage = 0 ∨ stage = 1 ∨ stage = 2 ∨ stage = 3 ∨ stage = 4 ∨ stage = 5
      ∨ stage = 6 := by
  revert stage
  decide

theorem Axis.calStage_of_legal (c : Config) (d : Direction) (a : Axis) (h : legalStage a.stage = true) :
    ∃ b, a.calStage c d = some b := by
  obtain h | h | h | h | h | h | h | h := (legalStage_iff a.stage).1 h
  · exact ⟨_, Axis.calStage_255 c d h⟩
  · exact ⟨_, Axis.calStage_0 c d h⟩
  · exact ⟨_, Axis.calStage_1 c d h⟩
  · exact ⟨_, Axis.calStage_2 c d h⟩
  · exact ⟨_, Axis.calStage_3 c d h⟩
  · exact ⟨_, Axis.calStage_4 c d h⟩
  · exact ⟨_, Axis.calStage_5 c d h⟩
  · exact ⟨_, Axis.calStage_6 c d h⟩

theorem Axis.calStage_of_illegal (c : Config) (d : Direction) (a : Axis) (h : ¬ legalStage a.stage = true) :
    a.calStage c d = none := by
  simp only [legalStage_iff, not_or] at h
  obtain ⟨h255, h0, h1, h2, h3, h4, h5, h6⟩ := h
  rw [Axis.calStage, if_neg h255, if_neg h0, if_neg h1, if_neg h2, if_neg h3, if_neg h4, if_neg h5, if_neg h6]

theorem Axis.calibrate_answers (c : Config) (d : Direction) (a : Axis)
    (h : legalStage a.stage = true ∨ a.doCalibration = false ∨ a.calibrated = true) :
    ∃ b, a.calibrate c d = some b := by
  by_cases hopen : a.calibrating = true
  · obtain ⟨hdo, hcal⟩ := a.calibrating_iff.1 hopen
    rw [a.calibrate_open c d hopen]
    exact a.calStage_of_legal c d (h.resolve_right (by simp [hdo, hcal]))
  · exact ⟨a, a.calibrate_closed c d hopen⟩

/-! One axis's part of a TICK, and the parts one after the other (R380). -/

theorem tickAxis_answers (i : Fin 6) (s : State)
    (h : ∃ b, (s.axis i).calibrate s.cfg (s.cfg.direction.get i) = some b) : ∃ t, tickAxis i s = .ok t := by
  obtain ⟨b, hb⟩ := h
  exact ⟨_, by rw [tickAxis, hb]⟩

/-- R362: the step faults for the axis, and guesses no meaning. -/
theorem tickAxis_faults (i : Fin 6) (s : State)
    (h : (s.axis i).calibrate s.cfg (s.cfg.direction.get i) = none) : tickAxis i s = .error (.illegalStage i) := by
  rw [tickAxis, h]

theorem tickAxes_cons (i : Fin 6) (is : List (Fin 6)) (s t : State) (h : tickAxis i s = .ok t) :
    tickAxes (i :: is) s = tickAxes is t := by
  rw [tickAxes, h]

theorem tickAxes_append (is js : List (Fin 6)) (s t : State) (h : tickAxes is s = .ok t) :
    tickAxes (is ++ js) s = tickAxes js t := by
  induction is generalizing s with
  | nil => cases h; rfl
  | cons i rest ih =>
    rw [tickAxes] at h
    split at h
    · cases h
    · rename_i u hu
      rw [List.cons_append, tickAxes_cons i _ s u hu, ih u h]

theorem tickAxes_cfg (is : List (Fin 6)) (s t : State) (h : tickAxes is s = .ok t) : t.cfg = s.cfg :=
  tickAxes_induction (fun u => u.cfg = s.cfg) (fun i u v hu hv => (tickAxis_axis i i u v hv).1.trans hu) is s t rfl h

theorem tickAxes_answers (is : List (Fin 6)) (hn : is.Nodup) (s : State)
    (h : ∀ i ∈ is, ∃ b, (s.axis i).calibrate s.cfg (s.cfg.direction.get i) = some b) :
    ∃ t, tickAxes is s = .ok t := by
  induction is generalizing s with
  | nil => exact ⟨s, rfl⟩
  | cons i rest ih =>
    obtain ⟨hi, hrest⟩ := List.nodup_cons.1 hn
    obtain ⟨u, hu⟩ := tickAxis_answers i s (h i List.mem_cons_self)
    rw [tickAxes_cons i rest s u hu]
    refine ih hrest u fun j hj => ?_
    obtain ⟨hcfg, hother, -⟩ := tickAxis_axis i j s u hu
    rw [hcfg, hother fun e => hi (e ▸ hj)]
    exact h j (List.mem_cons_of_mem i hj)

/-- The first axis whose calibration step has no meaning is the one the TICK faults for (R362). -/
theorem tickAxes_faults (is js : List (Fin 6)) (i : Fin 6) (hn : (is ++ [i]).Nodup) (s : State)
    (his : ∀ j ∈ is, ∃ b, (s.axis j).calibrate s.cfg (s.cfg.direction.get j) = some b)
    (hi : (s.axis i).calibrate s.cfg (s.cfg.direction.get i) = none) :
    tickAxes (is ++ i :: js) s = .error (.illegalStage i) := by
  obtain ⟨hnis, -, hdisjoint⟩ := List.nodup_append.1 hn
  obtain ⟨t, ht⟩ := tickAxes_answers is hnis s his
  obtain ⟨hother, -⟩ := tickAxes_axis is hnis s t ht i
  have hfault : tickAxis i t = .error (.illegalStage i) := tickAxis_faults i t <| by
    rw [tickAxes_cfg is s t ht, hother fun hm => hdisjoint i hm i List.mem_cons_self rfl]
    exact hi
  rw [tickAxes_append is _ s t ht, tickAxes, hfault]

/-! Playback (R381). -/

/-- `s` after playback: the row of the trajectory that is due applied, and the index moved on, wrapping (R371, R381). -/
def played (s : State) : State :=
  if s.playing = true ∧ s.arrayLength ≠ 0 then
    { applyRow (trajRow s.traj s.trajIndex.toNat) s with
      trajIndex := u32 ((s.trajIndex.toNat + 1) % s.arrayLength.toNat) }
  else s

theorem toNat_pos_iff (n : U32) : 0 < n.toNat ↔ n ≠ 0 :=
  Nat.pos_iff_ne_zero.trans (not_congr ⟨fun h => BitVec.eq_of_toNat_eq h, fun h => congrArg BitVec.toNat h⟩)

/-- The row due is one that the trajectory buffer has (R37). -/
theorem playback_of_inv (s : State) (h : s.Inv) : playback s = .ok (played s) := by
  have hindex := h.trajIndex
  have hrows := h.arrayLength
  simp only [playback, played, toNat_pos_iff]
  split_ifs with hplays hrow
  · rfl
  · rw [if_neg hplays.2] at hindex
    exact absurd (hindex.trans_le hrows) hrow
  · rfl

theorem playback_of_not_playing (s : State) (h : s.playing = false) : playback s = .ok s :=
  if_neg (by simp [h])

theorem played_inv (s : State) (h : s.Inv) : (played s).Inv := playback_inv s _ h (playback_of_inv s h)

/-! The TICK, and every other event, from a state that meets the invariant. -/

theorem tick_of_inv (limit : Six Bool) (s : State) (h : s.Inv) :
    tick limit s = tickAxes axisOrder (played (tickStart limit s)) := by
  rw [tick, playback_of_inv _ (tickStart_inv limit s h)]

theorem tick_of_not_playing (limit : Six Bool) (s : State) (h : s.playing = false) :
    tick limit s = tickAxes axisOrder (tickStart limit s) := by
  rw [tick, playback_of_not_playing (tickStart limit s) h]

/-- Every stage of a state that meets the invariant is a listed one, so the TICK goes through (R44, R362). -/
theorem tick_answers (limit : Six Bool) (s : State) (h : s.Inv) : ∃ t, tick limit s = .ok t := by
  have hplayed := played_inv _ (tickStart_inv limit s h)
  rw [tick_of_inv limit s h]
  refine tickAxes_answers axisOrder axisOrder_nodup _ fun i _ => ?_
  obtain ⟨hstage, -⟩ := (Axis.wf_iff _ _).1 (hplayed.axes i)
  exact Axis.calibrate_answers _ _ _ (.inl hstage)

theorem canRx_answers (id : CanId) (f : Frame) (s : State) : ∃ t, canRx id f s = .next t := by
  unfold canRx
  split
  · exact exec_answers _ s
  · exact ⟨_, rfl⟩

theorem mainLoopStep_answers (s : State) (h : s.Inv) : ∃ t, mainLoopStep s = .next t := by
  cases hs : s.slot with
  | rxPoll => exact ⟨_, mainLoopStep_rxPoll s hs⟩
  | parseStep =>
    obtain ⟨t, ht⟩ := parseStep_answers s h
    exact ⟨_, (mainLoopStep_parseStep s hs).trans ((mapNext_next _ _ _).2 ⟨t, ht, rfl⟩)⟩
  | canDrain => exact ⟨_, mainLoopStep_canDrain s hs⟩

theorem runEvent_answers (e : Event) (s : State) (h : s.Inv) : ∃ t, runEvent e s = .next t := by
  cases e with
  | mainLoop => exact mainLoopStep_answers s h
  | tick limit =>
    obtain ⟨t, ht⟩ := tick_answers limit s h
    exact ⟨t, (ofExcept_next _ _).2 ht⟩
  | canRx id f => exact canRx_answers id f s
  | offer | txDrain | reset => exact ⟨_, rfl⟩

/-- The head of the schedule is the next event, with the entry consumed (R120). -/
theorem step_runEvent (s : State) (e : Event) (later : List Event) (hv : s.cfg.valid = true)
    (hp : s.pending = e :: later) : step s = runEvent e { s with pending := later } := by
  simp only [step, nextEvent, if_pos hv, hp]

theorem step_tick (s : State) (limit : Six Bool) (later : List Event) (hv : s.cfg.valid = true)
    (hp : s.pending = .tick limit :: later) : step s = ofExcept (tick limit { s with pending := later }) :=
  step_runEvent s _ later hv hp

/-- Settles O60: the next event is a main-loop event or the head of the schedule, and each of them answers. -/
theorem noStopFromInvariant : Obligations.NoStopFromInvariant := by
  intro s h
  cases hp : s.pending with
  | nil =>
    rw [step_mainLoop s [] h.valid (.inl ⟨hp, rfl⟩)]
    exact mainLoopStep_answers _ h.unread
  | cons e later =>
    rw [step_runEvent s e later h.valid hp]
    exact runEvent_answers e _ h.unread

theorem tickStart_axis (limit : Six Bool) (s : State) (i : Fin 6) :
    (tickStart limit s).axis i = (s.axis i).debounce s.cfg (limit.get i) := mapAxesIdx_axis ..

/-- The order of the axes, split at one of them: those before it are the earlier ones (R380). -/
theorem axisOrder_split (i : Fin 6) :
    ∃ before after, axisOrder = before ++ i :: after ∧ (before ++ [i]).Nodup ∧ ∀ j ∈ before, j < i :=
  ⟨axisOrder.take i, axisOrder.drop (i + 1), by revert i; decide⟩

/-- Settles O26: the debounce keeps stages and gates, so the axes before `i` go through and `i` faults. -/
theorem illegalStageFaults : Obligations.IllegalStageFaults := by
  intro s limit later i hv hp hplaying hlo hhi hdo hcal hearlier
  have hprogress (j : Fin 6) : ((tickStart limit { s with pending := later }).axis j).stage = (s.axis j).stage
      ∧ ((tickStart limit { s with pending := later }).axis j).calibrated = (s.axis j).calibrated
      ∧ ((tickStart limit { s with pending := later }).axis j).doCalibration = (s.axis j).doCalibration := by
    rw [tickStart_axis]
    exact (Axis.progress_eq_iff _ _).1 (Axis.debounce_progress ..)
  have hillegal : ¬ legalStage (s.axis i).stage = true := by
    rw [legalStage, Bool.or_eq_true, decide_eq_true_eq, beq_iff_eq]
    rintro (h | h)
    · omega
    · rw [h] at hhi; exact absurd hhi (by decide)
  have hfault : tickAxes axisOrder (tickStart limit { s with pending := later }) = .error (.illegalStage i) := by
    obtain ⟨before, after, horder, hnodup, hbefore⟩ := axisOrder_split i
    rw [horder]
    refine tickAxes_faults before after i hnodup _ (fun j hj => ?_) ?_
    · obtain ⟨hstage, hcalibrated, hdoCal⟩ := hprogress j
      refine Axis.calibrate_answers _ _ _ ?_
      rw [hstage, hcalibrated, hdoCal]
      exact hearlier j (hbefore j hj)
    · obtain ⟨hstage, hcalibrated, hdoCal⟩ := hprogress i
      rw [Axis.calibrate_open _ _ _ ((Axis.calibrating_iff _).2 ⟨hdoCal.trans hdo, hcalibrated.trans hcal⟩)]
      exact Axis.calStage_of_illegal _ _ _ (hstage ▸ hillegal)
  rw [step_tick s limit later hv hp, tick_of_not_playing limit { s with pending := later } hplaying, hfault, ofExcept]

/-- An axis with a closed gate, not armed and without telemetry waiting is passed over (R353, R367, R382). -/
theorem tickAxis_idle (i : Fin 6) (s : State)
    (h : (s.axis i).armed = false ∧ (s.axis i).newTelemetry = false ∧ (s.axis i).doCalibration = false) :
    tickAxis i s = .ok s := by
  obtain ⟨harmed, hnews, hdo⟩ := h
  have hclosed : (s.axis i).calibrate s.cfg (s.cfg.direction.get i) = some (s.axis i) :=
    Axis.calibrate_closed _ _ _ (by simp [Axis.calibrating, hdo])
  have hpd : (s.axis i).pdIssue s.cfg = s.axis i := Axis.pdIssue_of_not_armed _ _ harmed
  have hself : (s.modifyAxis i fun _ => s.axis i) = s := by
    rw [State.modifyAxis, State.axis, Six.set_get_self]
  simp only [tickAxis, hclosed, hpd, hself, hnews]
  rfl

theorem tickAxes_idle (is : List (Fin 6)) (s : State)
    (h : ∀ i, (s.axis i).armed = false ∧ (s.axis i).newTelemetry = false ∧ (s.axis i).doCalibration = false) :
    tickAxes is s = .ok s := by
  induction is with
  | nil => rfl
  | cons i rest ih => rw [tickAxes_cons i rest s s (tickAxis_idle i s (h i)), ih]

/-- The debounce writes the switch and its count only (R352). -/
theorem Axis.debounce_frame (c : Config) (raw : Bool) (a : Axis) :
    a.debounce c raw = { a with sw := (a.debounce c raw).sw, debCount := (a.debounce c raw).debCount } := by
  unfold Axis.debounce
  split_ifs <;> rfl

/-- Settles O52: after the debounce every axis is passed over. -/
theorem idleTickOnlyCountsAndDebounces : Obligations.IdleTickOnlyCountsAndDebounces := by
  intro s limit later hv hp hplaying hidle
  have hidle' (i : Fin 6) : ((tickStart limit { s with pending := later }).axis i).armed = false
      ∧ ((tickStart limit { s with pending := later }).axis i).newTelemetry = false
      ∧ ((tickStart limit { s with pending := later }).axis i).doCalibration = false := by
    rw [tickStart_axis, Axis.debounce_frame]
    exact hidle i
  refine ⟨tickStart limit { s with pending := later }, ?_, rfl, fun i => ?_⟩
  · rw [step_tick s limit later hv hp, tick_of_not_playing limit { s with pending := later } hplaying,
      tickAxes_idle _ _ hidle', ofExcept]
  · rw [tickStart_axis]
    exact Axis.debounce_frame ..

end Sys2Proof.Machine
end

section
/-! PROOFS. The FEEDBACK packets of a TICK (R271, R275, R382, R448), and the whole TICK (R380). -/

namespace Sys2Proof.Machine

/-- The FEEDBACK packets of some snapshots with consecutive sequence numbers, one after the other (R150, R271, R275). -/
def feedbackPackets (c : Config) (seq : U32) (fbs : List Feedback) : List Byte :=
  (fbs.mapIdx fun k fb =>
    packetBytes c ⟨seq + u32 k, c.nodeId, c.hostId⟩ c.msg.feedback (feedbackToBytes fb)).flatten

theorem feedbackPackets_concat (c : Config) (seq : U32) (fbs : List Feedback) (fb : Feedback) :
    feedbackPackets c seq (fbs ++ [fb]) = feedbackPackets c seq fbs
      ++ packetBytes c ⟨seq + u32 fbs.length, c.nodeId, c.hostId⟩ c.msg.feedback (feedbackToBytes fb) := by
  simp only [feedbackPackets, List.mapIdx_concat, List.flatten_append, List.flatten_singleton]

/-- The packets of some axes' snapshots, numbered along the axes. -/
theorem feedbackPackets_map (c : Config) (seq : U32) (is : List (Fin 6)) (fb : Fin 6 → Feedback) :
    feedbackPackets c seq (is.map fb) = (is.mapIdx fun k i =>
      packetBytes c ⟨seq + u32 k, c.nodeId, c.hostId⟩ c.msg.feedback (feedbackToBytes (fb i))).flatten := by
  refine congrArg List.flatten (List.ext_getElem? fun k => ?_)
  rw [List.getElem?_mapIdx, List.getElem?_mapIdx, List.getElem?_map, Option.map_map]
  rfl

theorem length_feedbackPackets (c : Config) (seq : U32) (fbs : List Feedback) :
    (feedbackPackets c seq fbs).length = fbs.length * (28 + c.overhead) := by
  induction fbs using List.reverseRecOn with
  | nil => simp [feedbackPackets]
  | append_singleton fbs fb ih =>
    rw [feedbackPackets_concat, List.length_append, ih, length_packetBytes, length_feedbackToBytes, List.length_append,
      List.length_singleton, Nat.succ_mul]

/-- How many of `n` FEEDBACK packets in a row do not fit whole into `room` free bytes (R448). -/
def truncated (c : Config) (room n : Nat) : Nat :=
  (List.range n).countP fun k => decide (room < (k + 1) * (28 + c.overhead))

theorem truncated_succ (c : Config) (room n : Nat) :
    truncated c room (n + 1) = truncated c room n + if room < (n + 1) * (28 + c.overhead) then 1 else 0 := by
  simp only [truncated, List.range_succ, List.countP_append, List.countP_singleton, decide_eq_true_eq]

/-- Between `s` and `t` the snapshots `fbs` were sent as FEEDBACK packets, and beyond the transmit side and the axis
records nothing changed (R271, R275, R382). -/
structure FeedbackSent (s t : State) (fbs : List Feedback) : Prop where
  frame : t = { withTransmit s t with axes := t.axes }
  appended : Appended s.cfg.txCap s.tx t.tx (feedbackPackets s.cfg s.txSeq fbs)
  seq : t.txSeq = s.txSeq + u32 fbs.length
  truncation : t.counters.txTruncCount
    = s.counters.txTruncCount + u32 (truncated s.cfg (s.cfg.txCap - s.tx.count.toNat) fbs.length)

theorem FeedbackSent.none (s : State) (h : Ring.wf s.cfg.txCap s.tx = true) : FeedbackSent s s [] where
  frame := rfl
  appended := Appended.refl _ _ h
  seq := (BitVec.add_zero _).symm
  truncation := (BitVec.add_zero _).symm

theorem FeedbackSent.modifyAxis {s t : State} {fbs : List Feedback} (h : FeedbackSent s t fbs) (i : Fin 6)
    (f : Axis → Axis) : FeedbackSent s (t.modifyAxis i f) fbs :=
  ⟨congrArg (fun u : State => u.modifyAxis i f) h.frame, h.appended, h.seq, h.truncation⟩

/-- One more packet sent (R271): it takes the next sequence number, and is counted when the room left is too small. -/
theorem FeedbackSent.send {s t u : State} {fbs : List Feedback} {fb : Feedback} (h : FeedbackSent s t fbs)
    (hsent : Sent t u t.cfg.msg.feedback t.cfg.hostId (feedbackToBytes fb))
    (hframe : u = { withTransmit t u with axes := u.axes }) : FeedbackSent s u (fbs ++ [fb]) := by
  have hcfg : t.cfg = s.cfg := by rw [h.frame]; rfl
  obtain ⟨happended, hseq, htrunc⟩ := hsent
  obtain ⟨-, hcount, -⟩ := h.appended
  rw [hcfg] at happended htrunc
  rw [h.seq] at happended
  have hroom : s.cfg.txCap - t.tx.count.toNat < 28 + s.cfg.overhead
      ↔ s.cfg.txCap - s.tx.count.toNat < (fbs.length + 1) * (28 + s.cfg.overhead) := by
    rw [hcount, length_feedbackPackets, Nat.succ_mul]
    omega
  refine ⟨?_, ?_, ?_, ?_⟩
  · rw [hframe, h.frame]
    rfl
  · rw [feedbackPackets_concat]
    exact h.appended.trans _ _ _ _ _ _ happended
  · rw [hseq, h.seq, List.length_append, List.length_singleton, BitVec.add_assoc, u32_succ]
  · rw [htrunc, h.truncation, length_feedbackToBytes, List.length_append, List.length_singleton, truncated_succ]
    simp only [hroom]
    split_ifs
    · rw [BitVec.add_assoc, u32_succ]
    · rfl

/-! The axes' parts of a TICK (R380). -/

/-- The telemetry flag is part of what CAN_RX writes. -/
theorem newTelemetry_of_received {a b : Axis} (h : b.received = a.received) : b.newTelemetry = a.newTelemetry := by
  simp only [Axis.received, Prod.mk.injEq] at h
  obtain ⟨-, -, -, -, -, -, -, -, hnews⟩ := h
  exact hnews

/-- Axis `i`'s part of a TICK sends its snapshot exactly when it has telemetry waiting (R382). -/
theorem FeedbackSent.tickAxis {s u v : State} {fbs : List Feedback} (h : FeedbackSent s u fbs) (hu : u.Inv) (i : Fin 6)
    (hv : tickAxis i u = .ok v) :
    FeedbackSent s v (fbs ++ if (u.axis i).newTelemetry then [(v.axis i).fb] else []) := by
  obtain ⟨a, ha, rfl⟩ := tickAxis_ok i u v hv
  have hissued := h.modifyAxis i fun _ => a.pdIssue u.cfg
  have hnews : (a.pdIssue u.cfg).newTelemetry = (u.axis i).newTelemetry :=
    newTelemetry_of_received ((Axis.pdIssue_received ..).trans
      (congrArg Prod.fst (Axis.calibrate_outside _ _ _ _ ha)))
  rw [hnews]
  split_ifs
  · obtain ⟨hsent, hframe⟩ := feedbackAxis_sends i (u.modifyAxis i fun _ => a.pdIssue u.cfg) hu.valid hu.txRing
    rw [feedbackAxis_axis, if_pos rfl]
    exact hissued.send hsent hframe
  · rwa [List.append_nil]

/-- The axes' parts of a TICK send the snapshots of the axes with telemetry waiting, in the order of the visit (R380,
R382). -/
theorem FeedbackSent.tickAxes {s u t : State} {fbs : List Feedback} (h : FeedbackSent s u fbs) (hu : u.Inv)
    (is : List (Fin 6)) (hn : is.Nodup) (ht : tickAxes is u = .ok t) :
    FeedbackSent s t (fbs ++ (is.filter fun i => (u.axis i).newTelemetry).map fun i => (t.axis i).fb) := by
  induction is generalizing u fbs with
  | nil => cases ht; rwa [List.filter_nil, List.map_nil, List.append_nil]
  | cons i rest ih =>
    obtain ⟨hi, hrest⟩ := List.nodup_cons.1 hn
    rw [Machine.tickAxes] at ht
    split at ht
    · cases ht
    · rename_i v hv
      have hrec := ih (h.tickAxis hu i hv) (tickAxis_inv i u v hu hv) hrest ht
      have hself : t.axis i = v.axis i := (tickAxes_axis rest hrest v t ht i).1 hi
      have hlater : (rest.filter fun j => (v.axis j).newTelemetry) = rest.filter fun j => (u.axis j).newTelemetry :=
        List.filter_congr fun j hj => by rw [(tickAxis_axis i j u v hv).2.1 fun e => hi (e ▸ hj)]
      rw [hlater, ← hself, List.append_assoc] at hrec
      rw [List.filter_cons]
      split_ifs at hrec ⊢
      · exact hrec
      · exact hrec

/-! Playback and the whole TICK. -/

theorem played_frame (s : State) :
    played s = { s with
      trajIndex := if s.playing = true ∧ s.arrayLength ≠ 0
        then u32 ((s.trajIndex.toNat + 1) % s.arrayLength.toNat) else s.trajIndex
      axes := (played s).axes } := by
  unfold played
  split_ifs <;> rfl

theorem played_axis (s : State) (i : Fin 6) :
    (played s).axis i = if s.playing = true ∧ s.arrayLength ≠ 0
      then (s.axis i).applySetpoint s.cfg (s.cfg.direction.get i) ((trajRow s.traj s.trajIndex.toNat).get i)
      else s.axis i := by
  unfold played
  split_ifs
  · exact mapAxesIdx_axis ..
  · rfl

/-- Up to the axes' parts, a TICK leaves the waiting telemetry as it was (R380). -/
theorem played_tickStart_newTelemetry (limit : Six Bool) (s : State) (i : Fin 6) :
    ((played (tickStart limit s)).axis i).newTelemetry = (s.axis i).newTelemetry := by
  refine newTelemetry_of_received ?_
  rw [played_axis, tickStart_axis]
  split_ifs
  · exact (Axis.applySetpoint_received ..).trans (Axis.debounce_received ..)
  · exact Axis.debounce_received ..

/-- The packets of a TICK are those of the axes that had telemetry waiting (R380, R382). -/
theorem tick_feedbackSent (limit : Six Bool) (s t : State) (h : s.Inv) (ht : tick limit s = .ok t) :
    FeedbackSent (played (tickStart limit s)) t
      ((axisOrder.filter fun i => (s.axis i).newTelemetry).map fun i => (t.axis i).fb) := by
  have hplayed := played_inv _ (tickStart_inv limit s h)
  rw [tick_of_inv limit s h] at ht
  have hsent := (FeedbackSent.none _ hplayed.txRing).tickAxes hplayed axisOrder axisOrder_nodup ht
  simpa only [played_tickStart_newTelemetry, List.nil_append] using hsent

/-- What a TICK does to one record, with the row of playback where one is due (R380, R381). -/
theorem tick_axis_eq (limit : Six Bool) (s t : State) (h : s.Inv) (ht : tick limit s = .ok t) (i : Fin 6) :
    ∃ e, ((played (tickStart limit s)).axis i).calibrate s.cfg (s.cfg.direction.get i) = some e
      ∧ t.axis i = (e.pdIssue s.cfg).reported (s.cfg.axisId.get i) (s.cfg.direction.get i) := by
  have hcfg : (played (tickStart limit s)).cfg = s.cfg := by rw [played_frame]; rfl
  rw [tick_of_inv limit s h] at ht
  rw [← hcfg]
  exact (tickAxes_axis axisOrder axisOrder_nodup _ t ht i).2 (mem_axisOrder i)

/-- Settles O51: playback on the debounced state, then the axes' parts, whose feedback is one run of packets. -/
theorem tickDoesEachAxisInOrder : Obligations.TickDoesEachAxisInOrder := by
  intro s limit later h hp plays reporting room
  have hinv : ({ s with pending := later } : State).Inv := h.unread
  obtain ⟨t, ht⟩ := tick_answers limit _ hinv
  obtain ⟨hframe, happended, hseq, htrunc⟩ := tick_feedbackSent limit _ t hinv ht
  rw [played_frame] at hframe happended hseq htrunc
  rw [List.length_map] at hseq htrunc
  rw [feedbackPackets_map] at happended
  refine ⟨t, ?_, hframe, happended, hseq, htrunc, fun i => ?_⟩
  · rw [step_tick s limit later h.valid hp, ht, ofExcept]
  · obtain ⟨e, he, hi⟩ := tick_axis_eq limit _ t hinv ht i
    rw [played_axis, tickStart_axis] at he
    exact ⟨e, he, hi⟩

end Sys2Proof.Machine
end

section
/-! PROOFS. What a host message sends (45_dispatcher.md): exactly one packet, whatever the message does before and
after it. -/

namespace Sys2Proof.Machine

/-- What `Sent` reads of a state: the parameters, RB.TX, the next sequence number, the truncation counter. -/
def State.transmitSide (s : State) : Config × Ring × U32 × U32 := (s.cfg, s.tx, s.txSeq, s.counters.txTruncCount)

/-- `Sent` looks only at the transmit sides of the two states. -/
theorem Sent.of_transmitSide {s r u t : State} {m dest : Byte} {pl : List Byte} (h : Sent r u m dest pl)
    (hr : r.transmitSide = s.transmitSide) (ht : t.transmitSide = u.transmitSide) : Sent s t m dest pl := by
  simp only [State.transmitSide, Prod.mk.injEq] at hr ht
  obtain ⟨hcfg, htx, hseq, htrunc⟩ := hr
  obtain ⟨-, htx', hseq', htrunc'⟩ := ht
  simpa only [Sent, hcfg, htx, hseq, htrunc, htx', hseq', htrunc'] using h

/-- A message whose meaning is a packet sent from `r`, followed by `act`: one packet between `s` and the outcome when
neither `r` nor `act` touches the transmit side, and any `P` that holds whatever that packet did to the transmit
side. -/
theorem exec_sends {s : State} {i : Instr} {m dest : Byte} {pl : List Byte} {P : State → Prop} (r : State)
    (act : State → State) (hinv : s.Inv) (hexec : exec i s = .next (act (sendPacket m dest pl r)))
    (hr : r.transmitSide = s.transmitSide) (hact : ∀ u, (act u).transmitSide = u.transmitSide)
    (hP : ∀ u, P (act (withTransmit r u))) : ∃ t, exec i s = .next t ∧ Sent s t m dest pl ∧ P t := by
  obtain ⟨hcfg, htx, -⟩ : r.cfg = s.cfg ∧ r.tx = s.tx ∧ _ := by
    simpa only [State.transmitSide, Prod.mk.injEq] using hr
  have hvalid : r.cfg.valid = true := hcfg ▸ hinv.valid
  have hring : Ring.wf r.cfg.txCap r.tx = true := hcfg ▸ htx ▸ hinv.txRing
  obtain ⟨hsent, hframe, -⟩ := sendPacket_spec m dest pl r hvalid hring
  refine ⟨_, hexec, hsent.of_transmitSide hr (hact _), ?_⟩
  rw [hframe]
  exact hP _

@[simp] theorem stopPlaying_axis (s : State) (i : Fin 6) : (stopPlaying s).axis i = (s.axis i).idle s.cfg :=
  mapAxes_axis ..

/-- Settles O1: the two messages send the ACK and nothing follows. -/
theorem heartbeatAndConnectAcknowledge : Obligations.HeartbeatAndConnectAcknowledge := by
  intro s h p hinv
  constructor <;>
    exact exec_sends s (fun u => u) hinv rfl rfl (fun _ => rfl) fun _ => rfl

/-- Settles O3: after the ACK every record takes the engaged gains (R368). -/
theorem playEngagesEveryAxis : Obligations.PlayEngagesEveryAxis := by
  intro s h p hinv
  exact exec_sends s (fun u => { u.mapAxes (Axis.engage s.cfg) with playing := true }) hinv rfl rfl (fun _ => rfl)
    fun u => ⟨rfl, fun i => mapAxes_axis (withTransmit s u) (Axis.engage s.cfg) i⟩

/-- Settles O4: after the ACK only `playing` is written. -/
theorem pauseKeepsIndexAndGains : Obligations.PauseKeepsIndexAndGains := by
  intro s h p hinv
  exact exec_sends s (fun u => { u with playing := false }) hinv rfl rfl (fun _ => rfl) fun _ => rfl

/-- Settles O5: both messages are the ACK, then `stopPlaying`, then the rewind. -/
theorem stopAndResetMessageRewind : Obligations.StopAndResetMessageRewind := by
  intro s h p hinv
  constructor <;>
    exact exec_sends s (fun u => { stopPlaying u with trajIndex := 0 }) hinv rfl rfl (fun _ => rfl)
      fun u => ⟨rfl, stopPlaying_axis (withTransmit s u)⟩

/-- Settles O6: both messages are the ACK, then `stopPlaying`. -/
theorem quitAndDisconnectStopPlayback : Obligations.QuitAndDisconnectStopPlayback := by
  intro s h p hinv
  constructor <;>
    exact exec_sends s stopPlaying hinv rfl rfl (fun _ => rfl)
      fun u => ⟨rfl, stopPlaying_axis (withTransmit s u)⟩

/-- Settles O12: the four reports have no action. -/
theorem incomingReportsIgnored : Obligations.IncomingReportsIgnored :=
  fun _ _ _ _ _ _ => ⟨rfl, rfl, rfl, rfl⟩

/-- Settles O13: the one action is to raise UnknownMessage, whose record in R441 is its counter. -/
theorem unknownMessageOnlyCounted : Obligations.UnknownMessageOnlyCounted :=
  fun _ _ _ _ => rfl

end Sys2Proof.Machine
end

section
/-! PROOFS. ENABLE and DISABLE (R402, R406): the frame each queues, or counts as dropped, on every axis. -/

namespace Sys2Proof.Machine

/-- ENABLE on one record whose queue is within its depth (R402). -/
theorem Axis.enable_eq (c : Config) (a : Axis) (h : a.txq.length ≤ c.canTxqDepth) :
    a.enable c = { a with
      txq := if a.txq.length < c.canTxqDepth then a.txq ++ [encNone c.op.startMotor] else a.txq
      canTxDropCount := if a.txq.length < c.canTxqDepth then a.canTxDropCount else a.canTxDropCount + 1
      doCalibration := if a.calibrated then a.doCalibration else true
      stage := if a.calibrated then a.stage else 255 } := by
  rw [Axis.enable, Axis.txqPush_eq c _ a h]
  cases a.calibrated <;> rfl

/-- DISABLE on one record whose queue is within its depth (R406). -/
theorem Axis.disable_eq (c : Config) (a : Axis) (h : a.txq.length ≤ c.canTxqDepth) :
    a.disable c = { a.idle c with
      txq := if a.txq.length < c.canTxqDepth then a.txq ++ [encNone c.op.stopMotor] else a.txq
      canTxDropCount := if a.txq.length < c.canTxqDepth then a.canTxDropCount else a.canTxDropCount + 1
      doCalibration := false } := by
  rw [Axis.disable, Axis.txqPush_eq c _ (a.idle c) h]
  rfl

/-- In the invariant every queue is within its depth (R48). -/
theorem State.Inv.length_txq {s : State} (h : s.Inv) (i : Fin 6) : (s.axis i).txq.length ≤ s.cfg.canTxqDepth := by
  obtain ⟨-, -, -, hq⟩ := (Axis.wf_iff _ _).1 (h.axes i)
  exact hq

/-- Settles O2: after the ACK every record is enabled. -/
theorem enableStartsAndRequestsCalibration : Obligations.EnableStartsAndRequestsCalibration := by
  intro s h p hinv
  refine exec_sends s (fun u => u.mapAxes (Axis.enable s.cfg)) hinv rfl rfl (fun _ => rfl)
    fun u => ⟨rfl, fun i => ?_⟩
  exact (mapAxes_axis (withTransmit s u) _ i).trans (Axis.enable_eq s.cfg (s.axis i) (hinv.length_txq i))

/-- Settles O7: after the ACK every record is disabled and `playing` cleared. -/
theorem disableStopsEveryAxis : Obligations.DisableStopsEveryAxis := by
  intro s h p hinv
  refine exec_sends s (fun u => { u.mapAxes (Axis.disable s.cfg) with playing := false }) hinv rfl rfl (fun _ => rfl)
    fun u => ⟨rfl, fun i => ?_⟩
  exact (mapAxes_axis (withTransmit s u) _ i).trans (Axis.disable_eq s.cfg (s.axis i) (hinv.length_txq i))

end Sys2Proof.Machine
end

section
/-! PROOFS. UPLOAD (R407, R451): the rows in the trajectory buffer, or the rejection of too many. -/

namespace Sys2Proof.Machine

/-- A run of rows stored from the buffer's first byte on puts row `r` at its place of R104. -/
theorem readBytes_rowsToBytes (m : Memory) (rows : List Row) (r : Nat) (hm : Memory.wf m = true)
    (hr : r < rows.length) :
    Memory.readBytes (Memory.writeBytes m 0 (rowsToBytes rows)) (rowBytes * r) rowBytes = rowToBytes rows[r] := by
  refine List.ext_getElem (by simp [rowBytes]) fun k hk hk' => ?_
  have hk24 : k < 24 := hk'
  have hinside : 0 ≤ rowBytes * r + k ∧ rowBytes * r + k < 0 + (rowsToBytes rows).length := by
    rw [length_rowsToBytes, rowBytes]; omega
  have hread : (Memory.readBytes (Memory.writeBytes m 0 (rowsToBytes rows)) (rowBytes * r) rowBytes).getD k 0
      = (rowToBytes rows[r]).getD k 0 := by
    rw [Memory.getD_readBytes _ _ rowBytes _ hk24, Memory.read_writeBytes _ _ _ _ hm, if_pos hinside, Nat.sub_zero]
    exact getD_rowsToBytes rows r k hr hk24
  simpa only [List.getD_eq_getElem _ _ hk, List.getD_eq_getElem _ _ hk'] using hread

/-- A row committed is the row that playback reads (R104, R381). -/
theorem trajRow_writeBytes (m : Memory) (rows : List Row) (r : Nat) (hm : Memory.wf m = true)
    (hr : r < rows.length) : trajRow (Memory.writeBytes m 0 (rowsToBytes rows)) r = rows[r] := by
  rw [trajRow, readBytes_rowsToBytes m rows r hm hr, rowAt_rowToBytes]

/-- The bytes beyond the rows committed are those from before. -/
theorem read_writeBytes_beyond (m : Memory) (rows : List Row) (a : Nat) (hm : Memory.wf m = true)
    (ha : rowBytes * rows.length ≤ a) :
    Memory.read (Memory.writeBytes m 0 (rowsToBytes rows)) a = Memory.read m a := by
  have houtside : ¬ (0 ≤ a ∧ a < 0 + (rowsToBytes rows).length) := by
    rw [length_rowsToBytes]; rw [rowBytes] at ha; omega
  rw [Memory.read_writeBytes _ _ _ _ hm, if_neg houtside]

/-- The state of an accepted UPLOAD before its ACK (R407). -/
def rowsCommitted (rows : List Row) (s : State) : State :=
  { s with
    traj := Memory.writeBytes s.traj 0 (rowsToBytes rows)
    arrayLength := u32 rows.length
    trajIndex := 0 }

theorem exec_upload_fits (h : Header) (rows : List Row) (s : State) (hfit : rows.length ≤ s.cfg.trajRows) :
    exec (.upload h rows) s = .next (sendAck h s.cfg.msg.upload (rowsCommitted rows s)) :=
  if_neg (Nat.not_lt.2 hfit)

theorem exec_upload_exceeds (h : Header) (rows : List Row) (s : State) (hbig : s.cfg.trajRows < rows.length) :
    exec (.upload h rows) s = .next (sendNak h s.cfg.msg.upload (raise .capacityError s)) :=
  if_pos hbig

/-- Settles O8: the rows are committed, then acknowledged. -/
theorem uploadCommitsRows : Obligations.UploadCommitsRows := by
  intro s h rows hinv hfit hlen
  obtain ⟨hmem, -⟩ := Bool.and_eq_true_iff.1 hinv.trajBuffer
  refine exec_sends (rowsCommitted rows s) (fun u => u) hinv (exec_upload_fits h rows s hfit) rfl (fun _ => rfl)
    fun u => ⟨rfl, ?_, ?_, ?_⟩
  · exact toNat_u32 rows.length hlen
  · exact fun r hr => trajRow_writeBytes s.traj rows r hmem hr
  · exact fun a ha => read_writeBytes_beyond s.traj rows a hmem ha

/-- Settles O9: CapacityError is raised, then the NAK is sent. -/
theorem uploadBeyondCapacityRejected : Obligations.UploadBeyondCapacityRejected := by
  intro s h rows hinv hbig
  exact exec_sends (raise .capacityError s) (fun u => u) hinv (exec_upload_exceeds h rows s hbig) rfl (fun _ => rfl)
    fun _ => rfl

end Sys2Proof.Machine
end

section
/-! PROOFS. MOVE (R413, R452): the setpoints of its row, or the rejection while playing. -/

namespace Sys2Proof.Machine

/-- `apply_external_setpoint` written out with the clamp and the transform (R369-R371). -/
theorem Axis.applySetpoint_eq (c : Config) (d : Direction) (b : F32) (a : Axis) :
    a.applySetpoint c d b = if (a.doCalibration = true ∧ a.calibrated = false) ∨ F32.isNaN b = true then a
      else { a with setPoint := F32.add (F32.mul (clampAngle c b) (dirf d)) a.offset } := by
  by_cases hcal : a.doCalibration = true ∧ a.calibrated = false
  · rw [Axis.applySetpoint, if_pos (a.calibrating_iff.2 hcal), if_pos (.inl hcal)]
  · have hclosed : ¬ a.calibrating = true := mt a.calibrating_iff.1 hcal
    by_cases hnan : F32.isNaN b = true
    · rw [Axis.applySetpoint, if_neg hclosed, if_pos hnan, if_pos (.inr hnan)]
    · rw [Axis.applySetpoint, if_neg hclosed, if_neg hnan, if_neg (not_or.2 ⟨hcal, hnan⟩), toMotor]

theorem applyRow_axis (row : Row) (s : State) (i : Fin 6) :
    (applyRow row s).axis i = (s.axis i).applySetpoint s.cfg (s.cfg.direction.get i) (row.get i) :=
  mapAxesIdx_axis ..

theorem exec_move_not_playing (h : Header) (row : Row) (s : State) (hp : s.playing = false) :
    exec (.move h row) s = .next (sendAck h s.cfg.msg.move (applyRow row s)) :=
  if_neg (ne_true_of_eq_false hp)

theorem exec_move_playing (h : Header) (row : Row) (s : State) (hp : s.playing = true) :
    exec (.move h row) s = .next (sendNak h s.cfg.msg.move (raise .moveRejected s)) :=
  if_pos hp

/-- Settles O10: the row is applied axis by axis, then acknowledged. -/
theorem moveSetsSetpoints : Obligations.MoveSetsSetpoints := by
  intro s h row hinv hp
  simp only [← dirf_eq_ite]
  refine exec_sends (applyRow row s) (fun u => u) hinv (exec_move_not_playing h row s hp) rfl (fun _ => rfl)
    fun u => ⟨rfl, fun i => ?_⟩
  exact (applyRow_axis row s i).trans (Axis.applySetpoint_eq ..)

/-- Settles O11: MoveRejected is raised, then the NAK is sent. -/
theorem moveRejectedWhilePlaying : Obligations.MoveRejectedWhilePlaying := by
  intro s h row hinv hp
  exact exec_sends (raise .moveRejected s) (fun u => u) hinv (exec_move_playing h row s hp) rfl (fun _ => rfl)
    fun _ => rfl

end Sys2Proof.Machine
end

section
/-! PROOFS. CAN_RX on a reply whose identifier is no axis's CAN_ID (R447, R450) and on one whose result is not success
(R449), whatever its kind. -/

namespace Sys2Proof.Machine

/-- A motor frame is handled as a reply with the identifier and the data it is encoded to; the kinds differ only in what
a success does (R375). -/
theorem exec_motorFrame {k : Instr} {s : State} {id : CanId} {data : Frame} (h : encode s.cfg k = .frame id data) :
    ∃ act, exec k s = .next (handleReply id data act s) := by
  cases k with
  | opResetConfig | opRefreshConfig | opModifyConfig | opRetrieveConfig | opStartMotor | opStopMotor | opTorqueCtrl
  | opSpeedCtrl | opPositionCtrl | opStopCtrl | opModifyParam | opRetrieveParam | opGetVersion | opGetFault | opAckFault
  | opRetrieveIndicator => cases h; exact ⟨_, rfl⟩
  | _ => cases h

/-- The identifier is looked up before anything is recorded (R447, R450). -/
theorem handleReply_unknownId (id : CanId) (data : Frame) (act : Axis → Axis) (s : State)
    (h : ∀ i, s.cfg.canId.get i ≠ id) : handleReply id data act s = raise .canUnknownId s := by
  rw [handleReply, (axisOfCanId_none s.cfg id).2 h]

/-- A failed reply under an axis's CAN_ID: the raw record, then MotorError, and the action of its kind not taken (R449,
R450). -/
theorem handleReply_failed (data : Frame) (act : Axis → Axis) (s : State) (i : Fin 6) (hv : s.cfg.valid = true)
    (hr : data.b1 ≠ s.cfg.resultSuccess) :
    handleReply (s.cfg.canId.get i) data act s
      = s.modifyAxis i fun a => (a.recordReply s.tickCount data).countMotorErr := by
  have hi := axisOfCanId_canId s.cfg i hv
  obtain ⟨hnone, -⟩ | ⟨j, hj, ⟨hsuccess, -⟩ | ⟨-, h⟩⟩ := handleReply_cases (s.cfg.canId.get i) data act s
  · rw [hi] at hnone; cases hnone
  · exact absurd hsuccess hr
  · rw [hi] at hj; cases hj; exact h

theorem exec_failedReply {k : Instr} {s : State} {i : Fin 6} {data : Frame}
    (h : encode s.cfg k = .frame (s.cfg.canId.get i) data) (hv : s.cfg.valid = true)
    (hr : data.b1 ≠ s.cfg.resultSuccess) :
    ∃ t, exec k s = .next t ∧ OnlyAxisChanged s t i ((s.axis i).recordReply s.tickCount data).countMotorErr := by
  obtain ⟨act, hexec⟩ := exec_motorFrame h
  rw [handleReply_failed data act s i hv hr] at hexec
  exact ⟨_, hexec, modifyAxis_onlyAxisChanged s i _⟩

/-- Settles O18: whatever the kind, a failed reply is handled by its frame alone, so it is enough to know the frame of
each kind. -/
theorem failedRepliesOnlyCounted : Obligations.FailedRepliesOnlyCounted := by
  rintro s _ r q i hv rfl hr hq
  refine ⟨fun k hk => exec_failedReply (data := encRawReply k.2 r) ?_ hv hr,
    fun k hk => exec_failedReply (data := encControl k.2 q) ?_ hv hq⟩
  · revert k
    simp only [List.forall_mem_cons]
    exact ⟨rfl, rfl, rfl, rfl, rfl, rfl, rfl, rfl, rfl, rfl, rfl, rfl, rfl, nofun⟩
  · revert k
    simp only [List.forall_mem_cons]
    exact ⟨rfl, rfl, rfl, nofun⟩

/-- Settles O19: each kind is encoded to a frame with this identifier, which no axis has. -/
theorem unknownIdentifierDropped : Obligations.UnknownIdentifierDropped := by
  intro s id r q hunknown k hk
  have hframe : ∃ data, encode s.cfg k = .frame id data := by
    revert k
    simp only [List.forall_mem_cons]
    exact ⟨⟨_, rfl⟩, ⟨_, rfl⟩, ⟨_, rfl⟩, ⟨_, rfl⟩, ⟨_, rfl⟩, ⟨_, rfl⟩, ⟨_, rfl⟩, ⟨_, rfl⟩, ⟨_, rfl⟩, ⟨_, rfl⟩, ⟨_, rfl⟩,
      ⟨_, rfl⟩, ⟨_, rfl⟩, ⟨_, rfl⟩, ⟨_, rfl⟩, ⟨_, rfl⟩, nofun⟩
  obtain ⟨data, h⟩ := hframe
  obtain ⟨act, hexec⟩ := exec_motorFrame h
  exact hexec.trans (congrArg _ (handleReply_unknownId id data act s hunknown))

end Sys2Proof.Machine
end

section
/-! PROOFS. Power-on and RESET (R470-R472). -/

namespace Sys2Proof.Machine

/-- "Power-on equals RESET" (R471): RESET leaves the power-on state as it is. -/
theorem resetBlock_powerOn (c : Config) : resetBlock (State.powerOn c) = State.powerOn c := rfl

/-- Settles O56: RESET is next, and its event keeps the rest of the schedule and the ports. -/
theorem resetEventRestoresPowerOn : Obligations.ResetEventRestoresPowerOn :=
  fun s later hv hp => step_runEvent s .reset later hv hp

/-- Settles O57: the values stand in `State.powerOn`, the same record for each axis. -/
theorem powerOnValues : Obligations.PowerOnValues := fun c =>
  ⟨⟨rfl, rfl, rfl, rfl, rfl, rfl⟩, ⟨rfl, rfl, rfl, rfl, rfl⟩, ⟨rfl, rfl, rfl⟩, ⟨rfl, rfl, rfl⟩, rfl,
    fun i => Six.get_replicate (Axis.reset c) i⟩

/-- Settles O58: what RESET leaves meets the invariant, and power-on is a state that RESET leaves. -/
theorem powerOnMeetsInvariant : Obligations.PowerOnMeetsInvariant := by
  intro c hv
  rw [← resetBlock_powerOn c]
  exact resetBlock_inv (State.powerOn c) hv

end Sys2Proof.Machine
end

section
/-! PROOFS. Motor frames in both directions (R170-R175): byte 0 tells the sixteen kinds apart, and the fields of a reply
are every bit of bytes 1 to 7. -/

namespace Sys2Proof

/-- A control response's frame is rebuilt from its fields (R175, R323). -/
theorem encControl_controlFields (f : Frame) : encControl f.b0 (controlFields f) = f := by
  obtain ⟨h3, h4⟩ := byteAt_le16 f.b3 f.b4
  obtain ⟨h5, h6, h7⟩ := codes_give_bytes f.b5 f.b6 f.b7
  simp only [encControl, controlFields, h3, h4, h5, h6, h7]

/-- The frame of a motor reply decodes to it; the opcodes of R170 tell the kinds apart. -/
theorem decodeFrame_encode (c : Config) (i : Instr) (id : CanId) (f : Frame) (hv : c.valid = true)
    (hf : encode c i = .frame id f) : decodeFrame c id f = .ok i := by
  have hops := c.opcodes_ne hv
  simp only [OpCodes.toList, List.reverse_cons, List.reverse_nil, List.nil_append, List.cons_append, List.nodup_cons,
    List.mem_cons, List.not_mem_nil, or_false, not_or] at hops
  cases i with
  | opResetConfig | opRefreshConfig | opModifyConfig | opRetrieveConfig | opStartMotor | opStopMotor | opStopCtrl
  | opModifyParam | opRetrieveParam | opGetVersion | opGetFault | opAckFault | opRetrieveIndicator =>
    cases hf
    simp [decodeFrame, encRawReply, rawFields, hops]
  | opTorqueCtrl id r | opSpeedCtrl id r | opPositionCtrl id r =>
    cases hf
    rw [decodeFrame, controlFields_encControl]
    simp [encControl, hops]
  | _ => cases hf

/-- A frame that decodes is the frame of the reply it decodes to, and every motor reply is well formed (R174, R175). -/
theorem encode_of_decodeFrame (c : Config) (id : CanId) (f : Frame) (i : Instr) (h : decodeFrame c id f = .ok i) :
    encode c i = .frame id f ∧ i.wellFormed c = true := by
  have hraw : ∀ op, f.b0 = op → Wire.frame id (encRawReply op (rawFields f)) = .frame id f := by
    rintro _ rfl; rw [encRawReply_rawFields]
  have hcontrol : ∀ op, f.b0 = op → Wire.frame id (encControl op (controlFields f)) = .frame id f := by
    rintro _ rfl; rw [encControl_controlFields]
  unfold decodeFrame at h
  iterate 6
    obtain ⟨hop, h⟩ | ⟨-, h⟩ := ite_eq_cases h
    · cases h; exact ⟨hraw _ hop, rfl⟩
  iterate 3
    obtain ⟨hop, h⟩ | ⟨-, h⟩ := ite_eq_cases h
    · cases h; exact ⟨hcontrol _ hop, rfl⟩
  iterate 7
    obtain ⟨hop, h⟩ | ⟨-, h⟩ := ite_eq_cases h
    · cases h; exact ⟨hraw _ hop, rfl⟩
  cases h

/-- Settles O27: a host message is a packet, a motor reply a frame. -/
theorem decodeInvertsEncode : Obligations.DecodeInvertsEncode := by
  intro c i hv hwf
  cases hw : encode c i with
  | packet bs => exact decode_encode_packet c i bs hv hwf hw
  | frame id f => exact decodeFrame_encode c i id f hv hw

end Sys2Proof
end

section
/-! PROOFS. A packet that decodes is the one that the layout of R150 gives for its fields: each payload is rebuilt from
the fields read of it, and the decoder's checks leave no byte of header and footer free. -/

namespace Sys2Proof

/-- The bytes of a field that is read inside a payload (R104). -/
theorem bytesLe32_wordAt (pl : List Byte) (o : Nat) (h : o + 4 ≤ pl.length) :
    bytesLe32 (wordAt pl o) = (pl.drop o).take 4 := by
  rw [wordAt, bytesLe32_le32]
  refine List.ext_getElem (by simp; omega) fun k hk _ => ?_
  have hk4 : k < 4 := hk
  rw [List.getElem_take, List.getElem_drop]
  interval_cases k <;> exact List.getD_eq_getElem _ _ _

/-- Two runs of a payload, the second right behind the first. -/
theorem take_drop_append (pl : List Byte) (o m n : Nat) :
    (pl.drop o).take m ++ (pl.drop (o + m)).take n = (pl.drop o).take (m + n) := by
  rw [List.take_add, List.drop_drop]

/-- The bytes of a row that is read inside a payload (R104). -/
theorem rowToBytes_rowAt (pl : List Byte) (r : Nat) (h : 24 * r + 24 ≤ pl.length) :
    rowToBytes (rowAt pl r) = (pl.drop (24 * r)).take 24 :=
  calc rowToBytes (rowAt pl r)
      = bytesLe32 (wordAt pl (24 * r)) ++ bytesLe32 (wordAt pl (24 * r + 4)) ++ bytesLe32 (wordAt pl (24 * r + 8))
          ++ bytesLe32 (wordAt pl (24 * r + 12)) ++ bytesLe32 (wordAt pl (24 * r + 16))
          ++ bytesLe32 (wordAt pl (24 * r + 20)) := rfl
    _ = (pl.drop (24 * r)).take 24 := by simp (disch := omega) only [bytesLe32_wordAt, take_drop_append]

/-- The bytes of the first `n` rows that are read of a payload (R104, R164). -/
theorem rowsToBytes_rowAt (pl : List Byte) (n : Nat) (h : 24 * n ≤ pl.length) :
    rowsToBytes ((List.range n).map (rowAt pl)) = pl.take (24 * n) := by
  induction n with
  | zero => rfl
  | succ n ih =>
    have hlast := rowToBytes_rowAt pl n h
    have hbefore := ih (by omega)
    rw [rowsToBytes] at hbefore ⊢
    rw [List.range_succ, List.map_append, List.flatMap_append, hbefore, List.map_singleton, List.flatMap_singleton,
      hlast, ← List.take_add, Nat.mul_succ]

/-- The payload of an ACK or NAK is rebuilt from its fields (R163). -/
theorem answerToBytes_fields (pl : List Byte) (h : pl.length = 5) :
    answerToBytes (wordAt pl 0) (pl.getD 4 0) = pl := by
  match pl, h with
  | [a, b, c, d, e], _ => exact congrArg (· ++ [e]) (bytesLe32_le32 a b c d)

/-- The payload of a FEEDBACK is rebuilt from its fields (R165). -/
theorem feedbackToBytes_feedbackOfBytes (pl : List Byte) (h : pl.length = 28) :
    feedbackToBytes (feedbackOfBytes pl) = pl :=
  calc feedbackToBytes (feedbackOfBytes pl)
      = bytesLe32 (wordAt pl 0) ++ bytesLe32 (wordAt pl (0 + 4)) ++ bytesLe32 (wordAt pl (0 + 8))
          ++ bytesLe32 (wordAt pl (0 + 12)) ++ bytesLe32 (wordAt pl (0 + 16)) ++ bytesLe32 (wordAt pl (0 + 20))
          ++ bytesLe32 (wordAt pl (0 + 24)) := by
        rw [wordAt, bytesLe32_le32]; rfl
    _ = (pl.drop 0).take 28 := by
        rw [bytesLe32_wordAt pl 0 (by omega)]
        simp (disch := omega) only [bytesLe32_wordAt, take_drop_append]
    _ = pl := by rw [List.drop_zero, ← h, List.take_length]

/-- The payload of an UPLOAD is rebuilt from its rows (R164). -/
theorem rowsToBytes_rows (pl : List Byte) (h : 24 * (pl.length / 24) = pl.length) :
    rowsToBytes ((List.range (pl.length / 24)).map (rowAt pl)) = pl := by
  rw [rowsToBytes_rowAt pl _ h.le, h, List.take_length]

/-- The payload of a MOVE is rebuilt from its row (R164). -/
theorem rowToBytes_row (pl : List Byte) (h : pl.length = 24) : rowToBytes (rowAt pl 0) = pl := by
  rw [rowToBytes_rowAt pl 0 h.ge, Nat.mul_zero, List.drop_zero, ← h, List.take_length]

/-- What an admitted payload size says for the kinds that restrict it (R162, R246). -/
theorem admitted_sizes (c : Config) (m : Byte) (p : Nat) (hv : c.valid = true) (h : sizeOk c m p = true) :
    (m = c.msg.upload → 24 * (p / 24) = p) ∧ (m = c.msg.ack ∨ m = c.msg.nak → p = 5) ∧ (m = c.msg.move → p = 24)
      ∧ (m = c.msg.feedback → p = 28) := by
  have hids := c.messages_ne hv
  simp only [MsgIds.toList, List.reverse_cons, List.reverse_nil, List.nil_append, List.cons_append, List.nodup_cons,
    List.mem_cons, List.not_mem_nil, or_false, not_or] at hids
  refine ⟨fun hm => ?_, fun hm => ?_, fun hm => ?_, fun hm => ?_⟩
  · exact Nat.mul_div_cancel' (Nat.dvd_of_mod_eq_zero (by simpa [sizeOk, hm, hids] using h))
  · simpa [sizeOk, hm] using h
  · simpa [sizeOk, hm, hids] using h
  · simpa [sizeOk, hm, hids] using h

/-- A message that decodes is carried by the payload it was read of, and it is well formed when that fits
(R160-R166). -/
theorem carries_of_decodeMessage (c : Config) (h : Header) (m : Byte) (pl : List Byte) (i : Instr)
    (hv : c.valid = true) (hl : pl.length ≤ c.maxPayload) (hi : decodeMessage c h m pl = .ok i) :
    Carries c i h m pl ∧ i.wellFormed c = true := by
  have hdecoded := hi
  unfold decodeMessage at hi
  obtain ⟨-, hi⟩ | ⟨hsize, hi⟩ := ite_eq_cases hi
  · cases hi
  have hs : sizeOk c m pl.length = true := by simpa using hsize
  obtain ⟨hupload, hanswer, hmove, hfeedback⟩ := admitted_sizes c m pl.length hv hs
  suffices encode c i = .packet (packetBytes c h m pl) ∧ i.wellFormed c = true from
    ⟨⟨this.1, hl, hs, hdecoded⟩, this.2⟩
  -- heartbeat, enable, play, pause, stop, disable: the payload is the operand
  iterate 6
    obtain ⟨hm, hi⟩ | ⟨_, hi⟩ := ite_eq_cases hi
    · cases hi; exact ⟨hm ▸ rfl, decide_eq_true hl⟩
  -- upload
  obtain ⟨hm, hi⟩ | ⟨_, hi⟩ := ite_eq_cases hi
  · cases hi
    refine ⟨by rw [encode, rowsToBytes_rows pl (hupload hm), hm], decide_eq_true ?_⟩
    rw [List.length_map, List.length_range]
    exact (hupload hm).trans_le hl
  -- ack, nak
  iterate 2
    obtain ⟨hm, hi⟩ | ⟨_, hi⟩ := ite_eq_cases hi
    · cases hi
      have hfive := hanswer (by simp [hm])
      exact ⟨by rw [encode, answerToBytes_fields pl hfive, hm], decide_eq_true (hfive.ge.trans hl)⟩
  -- reset, quit, connect, disconnect: the payload is the operand
  iterate 4
    obtain ⟨hm, hi⟩ | ⟨_, hi⟩ := ite_eq_cases hi
    · cases hi; exact ⟨hm ▸ rfl, decide_eq_true hl⟩
  -- move
  obtain ⟨hm, hi⟩ | ⟨_, hi⟩ := ite_eq_cases hi
  · cases hi
    exact ⟨by rw [encode, rowToBytes_row pl (hmove hm), hm], decide_eq_true ((hmove hm).ge.trans hl)⟩
  -- feedback
  obtain ⟨hm, hi⟩ | ⟨_, hi⟩ := ite_eq_cases hi
  · cases hi
    have hbytes := feedbackToBytes_feedbackOfBytes pl (hfeedback hm)
    exact ⟨by rw [encode, hbytes, hm], decide_eq_true ((hfeedback hm).ge.trans hl)⟩
  -- info
  obtain ⟨hm, hi⟩ | ⟨_, hi⟩ := ite_eq_cases hi
  · cases hi; exact ⟨hm ▸ rfl, decide_eq_true hl⟩
  -- any other id is UNKNOWN
  have hother : m ∉ c.msg.named := by simp [MsgIds.named, *]
  cases hi
  exact ⟨rfl, Bool.and_eq_true_iff.2 ⟨decide_eq_true hother, decide_eq_true hl⟩⟩

/-- What stands behind the payload of a packet that passes the checks (R253): the CRC and the end marker. -/
theorem footer_eq (c : Config) (v : U32) (ft : List Byte) (hlen : c.footerSize ≤ ft.length) (hcrc : wordAt ft 0 = v)
    (hend : ¬ (c.hasEndMarker = true ∧ ft.getD 4 0 ≠ c.endMarker)) :
    ft = bytesLe32 v ++ endMarkerBytes c ++ ft.drop c.footerSize := by
  have htake : bytesLe32 v ++ endMarkerBytes c = ft.take c.footerSize := by
    obtain ⟨he, hf, -⟩ | ⟨he, hf, -⟩ := Config.overhead_cases c <;> rw [hf] at hlen ⊢
    · have hmark : ft[4] = c.endMarker := by
        rw [← List.getD_eq_getElem _ 0 hlen]; exact not_not.1 fun hn => hend ⟨he, hn⟩
      rw [← hcrc, bytesLe32_wordAt ft 0 (by omega), List.drop_zero, endMarkerBytes, if_pos he, ← hmark,
        List.take_append_getElem]
    · rw [← hcrc, bytesLe32_wordAt ft 0 hlen, endMarkerBytes, he]
      simp
  rw [htake, List.take_append_drop]

/-- The checks after the header pass only on the payload and footer that the layout of R150 gives (R245, R253). -/
theorem decodeAfterHeader_ok (c : Config) (b12 : List Byte) (len : U32) (h : Header) (m : Byte)
    (rest left : List Byte) (i : Instr) (hi : decodeAfterHeader c b12 len h m rest = .ok (i, left)) :
    ∃ pl, len = u32 (pl.length + c.overhead) ∧ pl.length ≤ c.maxPayload
      ∧ rest = pl ++ (bytesLe32 (crc32 (b12 ++ pl)) ++ endMarkerBytes c ++ left)
      ∧ decodeMessage c h m pl = .ok i := by
  unfold decodeAfterHeader at hi
  obtain ⟨-, hi⟩ | ⟨hlen, hi⟩ := ite_eq_cases hi
  · cases hi
  obtain ⟨-, hi⟩ | ⟨-, hi⟩ := ite_eq_cases hi
  · cases hi
  obtain ⟨-, hi⟩ | ⟨hthere, hi⟩ := ite_eq_cases hi
  · cases hi
  obtain ⟨-, hi⟩ | ⟨hcrc, hi⟩ := ite_eq_cases hi
  · cases hi
  obtain ⟨-, hi⟩ | ⟨hend, hi⟩ := ite_eq_cases hi
  · cases hi
  have hp : (rest.take (len.toNat - c.overhead)).length = len.toNat - c.overhead :=
    List.length_take_of_le (by omega)
  have hfooter := footer_eq c _ (rest.drop (len.toNat - c.overhead)) (by rw [List.length_drop]; omega)
    (not_not.1 hcrc) hend
  cases hd : decodeMessage c h m (rest.take (len.toNat - c.overhead)) with
  | error e => rw [hd] at hi; cases hi
  | ok j =>
    rw [hd] at hi
    cases hi
    refine ⟨rest.take (len.toNat - c.overhead), ?_, ?_, ?_, hd⟩
    · rw [hp, Nat.sub_add_cancel (by omega), Machine.u32_toNat]
    · rw [hp, Config.maxPayload]; omega
    · rw [← hfooter, List.take_append_drop]

/-- A packet that is read off the head of some bytes is the packet that the layout of R150 gives for the header, the
message id and the payload read of it. -/
theorem decodePacket_ok (c : Config) (bs left : List Byte) (i : Instr) (hi : decodePacket c bs = .ok (i, left)) :
    ∃ h m pl, bs = packetBytes c h m pl ++ left ∧ pl.length ≤ c.maxPayload ∧ decodeMessage c h m pl = .ok i := by
  unfold decodePacket at hi
  split at hi
  case h_1 s l0 l1 l2 l3 q0 q1 q2 q3 f t m rest =>
    obtain ⟨-, hi⟩ | ⟨hs, hi⟩ := ite_eq_cases hi
    · cases hi
    obtain ⟨pl, hlen, hl, hrest, hd⟩ := decodeAfterHeader_ok c _ _ _ m rest left i hi
    refine ⟨_, m, pl, ?_, hl, hd⟩
    have hbody : packetBody c ⟨le32 q0 q1 q2 q3, f, t⟩ m pl = [s, l0, l1, l2, l3, q0, q1, q2, q3, f, t, m] ++ pl := by
      rw [packetBody, ← hlen, bytesLe32_le32, bytesLe32_le32, not_not.1 hs]; rfl
    rw [packetBytes, hbody, hrest]
    simp only [List.append_assoc, List.cons_append, List.nil_append]
  case h_2 => cases hi
  case h_3 =>
    obtain ⟨-, hi⟩ | ⟨-, hi⟩ := ite_eq_cases hi
    · cases hi
    · cases hi

/-- A packet that decodes is the packet of the message it decodes to, which is well formed (R150, R260). -/
theorem encode_of_decode_packet (c : Config) (bs : List Byte) (i : Instr) (hv : c.valid = true)
    (hi : decode c (.packet bs) = .ok i) : encode c i = .packet bs ∧ i.wellFormed c = true := by
  have hpacket : decodePacket c bs = .ok (i, []) := by
    rw [decode] at hi
    split at hi
    · cases hi; assumption
    · cases hi
    · cases hi
  obtain ⟨h, m, pl, hbs, hl, hd⟩ := decodePacket_ok c bs [] i hpacket
  obtain ⟨hcarries, hwf⟩ := carries_of_decodeMessage c h m pl i hv hl hd
  exact ⟨by rw [hcarries.encoded, hbs, List.append_nil], hwf⟩

/-- Settles O28, by the two kinds of wire. -/
theorem encodeInvertsDecode : Obligations.EncodeInvertsDecode := by
  intro c w i hv hi
  cases w with
  | packet bs => exact encode_of_decode_packet c bs i hv hi
  | frame id f => exact encode_of_decodeFrame c id f i hi

end Sys2Proof
end
